-- ==== Sys2Proof/Word.lean ====
section
/-! DEFINITION. The word types of the TSG-3272 model. -/

namespace Sys2Proof

/-- One byte of memory, the smallest addressed unit (spec 00_scope, R15). -/
abbrev Byte := BitVec 8
/-- One 32-bit register word (spec 00_scope, "Register access"). -/
abbrev Word := BitVec 32
/-- One 64-bit register or counter (R4, R546). -/
abbrev DWord := BitVec 64

end Sys2Proof
end

