-- ==== Sys2Proof/Syntax.lean ====
section
/-! DEFINITION. The commands of the block: one constructor of `Instr` for each row of spec/opcode_table.json, with the
operands that the row's event carries into the module. -/

namespace Sys2Proof

/-- The two physical functions (R458). -/
inductive Fn | pf0 | pf1
  deriving DecidableEq, Repr

/-- Index types of R14, R202, R206, R341. -/
abbrev PartIx := Fin 4
abbrev QueueIx := Fin 64
abbrev CoreIx := Fin 144
abbrev CtxIx := Fin 4
abbrev DieIx := Fin 4
abbrev PortIx := Fin 6
abbrev GateIx := Fin 4096
abbrev SlotIx := Fin 16

/-- What the error checks of a memory found in the data of one access (R477). -/
inductive MemErr | none | correctable | uncorrectable
  deriving DecidableEq, Repr

/-- How a Garjor training ended (R361, R362). `lanes` has one bit for each locked lane. -/
inductive TrainEnd
  | up (lanes : BitVec 8)
  | noLock
  | partner (lanes : BitVec 8) (x y z port : Nat) (dimX dimY dimZ penLog2 layout : Nat)
  deriving DecidableEq, Repr

/-- The content of a CTRL flit (R348, R351, R362, R366, R367). The spec gives no bit layout for it (log 10). -/
inductive Ctrl
  | credit (vc : Fin 8) (reserved pool : Nat)
  | identity (x y z port dimX dimY dimZ penLog2 layout : Nat) (next : Option Nat)
  | presets (taps : List Nat)
  | lpiPropose | lpiAccept
  | recalStart | recalEnd
  deriving DecidableEq, Repr

/-- A received flit (R346, R347): bits [31:0] of its header, its CRC field and its payload. -/
structure RxFlit where
  hdr : Word
  crc : Word
  payload : List Byte
  deriving DecidableEq, Repr

/-- Who takes a port out of low-power idle (R366): its partner by the wake pattern, or this end. -/
inductive Wake | partner (g : PortIx) | own (g : PortIx)
  deriving DecidableEq, Repr

/-- A read of BAR0: its offset and its size in bytes (R2, R4). -/
structure BarRead where
  off : Nat
  bytes : Nat
  deriving DecidableEq, Repr

/-- A core at work that may read its output tile buffers, and whether the check of the elements read found an uncorrectable error (R477). -/
structure TileRead where
  core : CoreIx
  tileError : Bool
  deriving DecidableEq, Repr

/-- The unit whose correctable errors are counted (R491, R496). -/
inductive CeUnit | tier1 (s : Fin 32) | tier2 (c : Fin 16) | die (d : DieIx) | hub
  deriving DecidableEq, Repr

/-- What a failed host read belonged to (R460). -/
inductive HostRead
  | stream (core : CoreIx) (ctx : CtxIx)
  | fetch (p : PartIx) (q : QueueIx)
  | table (p : PartIx) (q : QueueIx)
  | instr (core : CoreIx)
  deriving DecidableEq, Repr

/-- One answer of an address translation service (R184): the translated host page, or no usable translation. -/
inductive AtsAnswer
  | page (host : Nat) (sizeLog2 : Nat) (r w : Bool)
  | unusable
  deriving DecidableEq, Repr

/-- The commands. Each constructor's docstring is the row's mnemonic. -/
inductive Instr where
  /-- REGISTER_WRITE -/
  | registerWrite (f : Fn) (off bytes : Nat) (v : DWord)
  /-- COUNTER_LOW_HALF_READ -/
  | counterLowHalfRead (f : Fn) (a : BarRead)
  /-- CFG_ERR_WRITE -/
  | cfgErrWrite (f : Fn) (v : Word)
  /-- GEN_REF_TIME_LOAD -/
  | genRefTimeLoad (f : Fn) (bytes : Nat) (hi : Bool) (v : DWord)
  /-- OP_MOVE_COMPLETE -/
  | opMoveComplete (d : DieIx)
  /-- DROOP_EVENT_START -/
  | droopEventStart (d : DieIx) (depthMv : Nat)
  /-- DROOP_EVENT_END -/
  | droopEventEnd (d : DieIx)
  /-- MPASS -/
  | mpass (c : CoreIx)
  /-- FILL_COMPLETE -/
  | fillComplete (c : CoreIx)
  /-- ROW_ADMIT -/
  | rowAdmit (c : CoreIx) (parityError : Bool)
  /-- PASS_LAST_RESULT -/
  | passLastResult (r : TileRead)
  /-- LETOUT_TILE_REPEAT -/
  | letoutTileRepeat (c : CoreIx)
  /-- LETOUT_LAYER_RESTART -/
  | letoutLayerRestart (c : CoreIx)
  /-- UNPIN -/
  | unpin (f : Fn) (p : PartIx)
  /-- STREAM_DESCRIPTOR_FETCHED -/
  | streamDescriptorFetched (c : CoreIx) (x : CtxIx) (slot : SlotIx)
  /-- STREAM_REQUEST_ISSUE -/
  | streamRequestIssue (c : CoreIx) (x : CtxIx) (slot : SlotIx)
  /-- READ_DATA_DELIVERED -/
  | readDataDelivered (req : Nat) (err : MemErr) (hostData : List Byte)
  /-- STORE_ACK -/
  | storeAck (store : Nat) (err : MemErr)
  /-- MCAST_SEGMENT_FETCH -/
  | mcastSegmentFetch (c : CoreIx) (slot : SlotIx)
  /-- RUN_AHEAD_RESUME -/
  | runAheadResume (c : CoreIx) (x : CtxIx)
  /-- RUNAHEAD_BIND -/
  | runaheadBind (c : CoreIx) (x : CtxIx)
  /-- CONTEXT_SWITCH -/
  | contextSwitch (c : CoreIx) (x : CtxIx)
  /-- ATS_COMPLETION -/
  | atsCompletion (p : PartIx) (page : Nat) (a : AtsAnswer)
  /-- PRG_RESPONSE -/
  | prgResponse (f : Fn) (pasid prgi : Nat) (success : Bool)
  /-- ATS_INVALIDATE -/
  | atsInvalidate (f : Fn) (page sizeLog2 : Nat)
  /-- XLAT_INVALIDATE_START -/
  | xlatInvalidateStart (f : Fn) (p : PartIx)
  /-- XLAT_INVALIDATE_DONE -/
  | xlatInvalidateDone (p : PartIx)
  /-- DOORBELL -/
  | doorbell (f : Fn) (p : PartIx) (q : QueueIx) (tail : Word)
  /-- TASK_DESCRIPTOR_FETCHED -/
  | taskDescriptorFetched (p : PartIx) (q : QueueIx) (hostData : List Byte)
  /-- TASK_DISPATCH -/
  | taskDispatch (p : PartIx) (q : QueueIx)
  /-- TASK_START -/
  | taskStart (c : CoreIx) (x : CtxIx)
  /-- TASK_COMPLETE -/
  | taskComplete (task : Nat)
  /-- CPL_HEAD_WRITE -/
  | cplHeadWrite (f : Fn) (p : PartIx) (q : QueueIx) (v : Word)
  /-- QUEUE_ENABLE -/
  | queueEnable (f : Fn) (p : PartIx) (q : QueueIx) (en : Bool)
  /-- QUEUE_RESUME -/
  | queueResume (f : Fn) (p : PartIx) (q : QueueIx)
  /-- QUEUE_SKIP -/
  | queueSkip (f : Fn) (p : PartIx) (q : QueueIx)
  /-- GATE_SET -/
  | gateSet (f : Fn) (g : GateIx) (v : Word)
  /-- GATE_ADD -/
  | gateAdd (f : Fn) (g : GateIx) (v : Word)
  /-- CFG_COMMIT -/
  | cfgCommit (f : Fn) (p : PartIx)
  /-- NOP -/
  | nop (c : CoreIx)
  /-- END -/
  | end_ (c : CoreIx)
  /-- LOOP -/
  | loop (c : CoreIx)
  /-- VBIN -/
  | vbin (r : TileRead)
  /-- VUN -/
  | vun (r : TileRead)
  /-- VFMA -/
  | vfma (r : TileRead)
  /-- VRED -/
  | vred (r : TileRead)
  /-- VSEG -/
  | vseg (r : TileRead)
  /-- VSCATADD -/
  | vscatadd (r : TileRead)
  /-- VTOPK -/
  | vtopk (r : TileRead)
  /-- VSORT -/
  | vsort (c : CoreIx)
  /-- VHIST -/
  | vhist (r : TileRead)
  /-- UPDATE -/
  | update (c : CoreIx)
  /-- BIND -/
  | bind (c : CoreIx)
  /-- UNBIND -/
  | unbind (c : CoreIx)
  /-- REARM -/
  | rearm (c : CoreIx)
  /-- SAMPLE -/
  | sample (c : CoreIx)
  /-- MOVE -/
  | move (c : CoreIx) (tileError : Bool)
  /-- FILL -/
  | fill (c : CoreIx)
  /-- ALLREDUCE -/
  | allreduce (c : CoreIx)
  /-- REDUCE_SCATTER -/
  | reduceScatter (c : CoreIx)
  /-- ALLGATHER -/
  | allgather (c : CoreIx)
  /-- SCALE_PREPASS -/
  | scalePrepass (c : CoreIx)
  /-- STEP_CLOSE -/
  | stepClose (c : CoreIx)
  /-- WAIT -/
  | wait (c : CoreIx)
  /-- WAIT_RELEASE -/
  | waitRelease (c : CoreIx) (x : CtxIx)
  /-- SIGNAL -/
  | signal (c : CoreIx)
  /-- BARRIER -/
  | barrier (c : CoreIx)
  /-- BARRIER_RELEASE -/
  | barrierRelease (task : Nat)
  /-- STAT_READ -/
  | statRead (c : CoreIx)
  /-- STAT_SNAP -/
  | statSnap (c : CoreIx)
  /-- DROVER_REQUEST_START -/
  | droverRequestStart (d : DieIx)
  /-- DROVER_REQUEST_DONE -/
  | droverRequestDone (d : DieIx)
  /-- VERDICT -/
  | verdict (p : PartIx)
  /-- PUBLISH -/
  | publish (f : Fn) (p : PartIx)
  /-- COMMIT_BASTE -/
  | commitBaste (f : Fn) (p : PartIx)
  /-- TOUCH -/
  | touch (f : Fn) (p : PartIx) (id : Fin 4096)
  /-- TOUCH_ALL -/
  | touchAll (f : Fn) (p : PartIx)
  /-- TRAIN_COUNTER_WRITE -/
  | trainCounterWrite (f : Fn) (p : PartIx) (applied : Bool) (v : DWord)
  /-- TRAIN_CFG_WRITE -/
  | trainCfgWrite (f : Fn) (p : PartIx) (v : Word)
  /-- TRAIN -/
  | train (f : Fn) (g : PortIx)
  /-- DISABLE -/
  | disable (f : Fn) (g : PortIx)
  /-- RECAL_NOW -/
  | recalNow (f : Fn) (g : PortIx)
  /-- TRAINING_END -/
  | trainingEnd (g : PortIx) (e : TrainEnd)
  /-- NO_PARTNER -/
  | noPartner (g : PortIx)
  /-- DATA_FLIT -/
  | dataFlit (g : PortIx) (hdr crc : Word) (payload : List Byte) (errs : List Nat)
  /-- CTRL_FLIT -/
  | ctrlFlit (g : PortIx) (x : RxFlit) (errs : List Nat) (content : Ctrl)
  /-- IDLE_FLIT -/
  | idleFlit (g : PortIx) (x : RxFlit) (errs : List Nat)
  /-- NAK -/
  | nak (g : PortIx) (x : RxFlit) (errs : List Nat)
  /-- FLIT_TRANSMIT -/
  | flitTransmit (g : PortIx)
  /-- FAST_RETRAIN -/
  | fastRetrain (g : PortIx)
  /-- FAST_RETRAIN_COMPLETE -/
  | fastRetrainComplete (g : PortIx) (lanes : BitVec 8)
  /-- LPI_ENTRY -/
  | lpiEntry (g : PortIx)
  /-- LPI_REFRESH -/
  | lpiRefresh (g : PortIx)
  /-- LPI_WAKE -/
  | lpiWake (w : Wake)
  /-- RECAL_START -/
  | recalStart (g : PortIx)
  /-- RECAL_FORCED -/
  | recalForced (g : PortIx)
  /-- RECAL_COMPLETE -/
  | recalComplete (g : PortIx)
  /-- TALLY_PACKET -/
  | tallyPacket (p : PartIx)
  /-- COLLECTIVE_DONE -/
  | collectiveDone (p : PartIx) (seq : Word)
  /-- COLLECTIVE_MISSING -/
  | collectiveMissing (p : PartIx) (seq : Word)
  /-- VERDICT_WAIT_LIMIT -/
  | verdictWaitLimit (p : PartIx)
  /-- VERDICT_TIMEOUT -/
  | verdictTimeout (p : PartIx)
  /-- ABORT_PACKET -/
  | abortPacket (p : PartIx)
  /-- LAYOUT_COMMIT -/
  | layoutCommit (f : Fn) (p : PartIx)
  /-- LAYOUT_FORCE -/
  | layoutForce (f : Fn) (p : PartIx)
  /-- EMA_RESET -/
  | emaReset (f : Fn) (p : PartIx)
  /-- STANDBY -/
  | standby (f : Fn)
  /-- WAKE -/
  | wake (f : Fn)
  /-- CAP_WRITE -/
  | capWrite (f : Fn) (v : Word)
  /-- I3C_CAP_WRITE -/
  | i3cCapWrite (watts : BitVec 16)
  /-- I3C_READ -/
  | i3cRead (off len : Nat)
  /-- I3C_ADDRESS_ASSIGN -/
  | i3cAddressAssign (addr : BitVec 7)
  /-- CONTROL_TICK -/
  | controlTick
  /-- FOLD_DUTY_PERIOD -/
  | foldDutyPeriod
  /-- FOLD_DUTY_OFF -/
  | foldDutyOff
  /-- SHED_ASSERT -/
  | shedAssert
  /-- SHED_RELEASE -/
  | shedRelease
  /-- SUPPLY_UNDERVOLTAGE -/
  | supplyUndervoltage (dv : Nat)
  /-- SUPPLY_RECOVER -/
  | supplyRecover (dv : Nat)
  /-- OVERVOLTAGE -/
  | overvoltage (dv : Nat)
  /-- SUPPLY_LOSS -/
  | supplyLoss (dv : Nat)
  /-- INPUT_LOST -/
  | inputLost
  /-- THERMAL_SAMPLE -/
  | thermalSample (dies : List Nat) (hub : Nat) (hbm : List Nat)
  /-- THERMAL_FOLD -/
  | thermalFold
  /-- THERMAL_TRIP -/
  | thermalTrip
  /-- RAIL_CURRENT -/
  | railCurrent (d : DieIx)
  /-- DIE_IDLE -/
  | dieIdle (d : DieIx)
  /-- GRAZE_ENTRY -/
  | grazeEntry (p : PartIx)
  /-- ENERGY_SAMPLE -/
  | energySample (vDv iCa : Nat)
  /-- CALIBRATION -/
  | calibration
  /-- LEARN_RESET -/
  | learnReset (f : Fn)
  /-- FOLD_REQ -/
  | foldReq (f : Fn) (p : PartIx) (on : Bool)
  /-- HEARTBEAT -/
  | heartbeat (f : Fn)
  /-- GIVE -/
  | give (f : Fn)
  /-- TAKEOVER -/
  | takeover (f : Fn)
  /-- HEARTBEAT_LAPSE -/
  | heartbeatLapse
  /-- OWNER_LINK_LOSS -/
  | ownerLinkLoss
  /-- FUNCTION_ABORT -/
  | functionAbort (by_ : Fn) (f : Fn)
  /-- ABORT_COMPLETE -/
  | abortComplete (f : Fn)
  /-- FUNCTION_LEVEL_RESET -/
  | functionLevelReset (f : Fn)
  /-- D3HOT_ENTRY -/
  | d3hotEntry (f : Fn)
  /-- PERST_ASSERT -/
  | perstAssert (f : Fn)
  /-- PERST_RELEASE -/
  | perstRelease (f : Fn) (rate width : Nat) (flit : Bool)
  /-- PARTITION_COMMIT -/
  | partitionCommit (f : Fn)
  /-- BAR4_READ -/
  | bar4Read (f : Fn) (off len : Nat)
  /-- BAR4_WRITE -/
  | bar4Write (f : Fn) (off : Nat) (data : List Byte) (poisoned : Bool)
  /-- HOST_READ_ERROR -/
  | hostReadError (r : HostRead)
  /-- SPDM_GET_CERTIFICATE -/
  | spdmGetCertificate (f : Fn) (slot off len : Nat)
  /-- SPDM_CHALLENGE -/
  | spdmChallenge (f : Fn) (slot : Nat) (nonce : List Byte)
  /-- SPDM_MEASUREMENTS -/
  | spdmMeasurements (f : Fn) (index : Nat) (signed : Bool) (nonce : List Byte)
  /-- SPDM_KEY_EXCHANGE -/
  | spdmKeyExchange (f : Fn) (slot : Nat) (exchange : List Byte)
  /-- SPDM_HEARTBEAT -/
  | spdmHeartbeat (f : Fn) (session : Nat)
  /-- SPDM_KEY_UPDATE -/
  | spdmKeyUpdate (f : Fn) (session : Nat)
  /-- SPDM_GET_CSR -/
  | spdmGetCsr (f : Fn)
  /-- SPDM_SET_CERTIFICATE -/
  | spdmSetCertificate (f : Fn) (chain : List Byte)
  /-- DOE_DISCOVERY -/
  | doeDiscovery (f : Fn) (index : Nat)
  /-- IDE_KM -/
  | ideKm (f : Fn) (session stream : Nat) (go : Bool)
  /-- LMS_RESERVATION_STORE -/
  | lmsReservationStore (ok : Bool)
  /-- IDE_INTEGRITY_FAILURE -/
  | ideIntegrityFailure (f : Fn) (stream : Nat)
  /-- PARTITION_FAULT -/
  | partitionFault (p : PartIx) (code : BitVec 16)
  /-- PARTITION_FAULT_COMPLETE -/
  | partitionFaultComplete (p : PartIx)
  /-- CLEAR -/
  | clear (f : Fn) (p : PartIx)
  /-- RECLAIM -/
  | reclaim (f : Fn) (p : PartIx)
  /-- RECLAIM_COMPLETE -/
  | reclaimComplete (p : PartIx)
  /-- MGMT_WATCHDOG -/
  | mgmtWatchdog
  /-- MGMT_RESTART_COMPLETE -/
  | mgmtRestartComplete
  /-- PATROL_SCRUB_READ -/
  | patrolScrubRead (addr : Nat) (found : MemErr) (foregroundWrite : Bool)
  /-- SCRUB_FORCE -/
  | scrubForce (u : CeUnit)
  /-- DRAM_REFRESH -/
  | dramRefresh (u : CeUnit)
  /-- ONCHIP_SCRUB -/
  | onchipScrub (addr : Nat) (found : MemErr)
  /-- WEAR_MANAGEMENT -/
  | wearManagement (region : Fin 4) (worst : Nat)
  /-- TELEMETRY_SAMPLE -/
  | telemetrySample (lost : Bool)
  /-- FAULT_LOG_COMMIT -/
  | faultLogCommit
  /-- FLT_LOG_SELECT -/
  | fltLogSelect (f : Fn) (n : Word)
  /-- NVS_READ_SELECT -/
  | nvsReadSelect (f : Fn) (v : Word)
  /-- TRACE_SELECT -/
  | traceSelect (f : Fn) (n : Word)
  /-- POWER_ON -/
  | powerOn (x y z pmb : Nat)
  /-- TIERS_READY -/
  | tiersReady
  /-- MODULE_RESET -/
  | moduleReset (x y z pmb : Nat)
  /-- IMAGE_UPDATE -/
  | imageUpdate (f : Fn)
  /-- IMAGE_FLASH_COMPLETE -/
  | imageFlashComplete
  /-- FUSE_COMMIT -/
  | fuseCommit (f : Fn)
  /-- TAKE_OWNERSHIP -/
  | takeOwnership (f : Fn)
  /-- RETIRE -/
  | retire (f : Fn)
  /-- RECOVER_COMMIT -/
  | recoverCommit (f : Fn)
  /-- IMAGE_WINDOW_WRITE -/
  | imageWindowWrite (f : Fn) (off bytes : Nat) (v : DWord)
  /-- IMAGE_WINDOW_RELEASE -/
  | imageWindowRelease
  /-- UNLOCK -/
  | unlock (f : Fn)
  /-- RELOCK -/
  | relock (f : Fn)
  /-- DEBUG_EXPIRY -/
  | debugExpiry
  /-- CORE_HALT -/
  | coreHalt (f : Fn) (c : CoreIx)
  /-- CORE_RESUME -/
  | coreResume (f : Fn) (c : CoreIx)
  /-- CORE_STEP -/
  | coreStep (f : Fn) (c : CoreIx)
  /-- SETTINGS_STORE -/
  | settingsStore (f : Fn)
  /-- SETTINGS_STORE_COMPLETE -/
  | settingsStoreComplete (readBackOk : Bool)
  /-- CLEAR_FAULTS -/
  | clearFaults
  /-- STATUS_WORD -/
  | statusWord
  /-- READ_VIN -/
  | readVin
  /-- READ_IIN -/
  | readIin
  /-- READ_TEMPERATURE_1 -/
  | readTemperature1
  /-- READ_PIN -/
  | readPin
  /-- PMBUS_REVISION -/
  | pmbusRevision
  /-- MFR_ID -/
  | mfrId
  /-- MFR_MODEL -/
  | mfrModel
  /-- PMBUS_OTHER_COMMAND -/
  | pmbusOtherCommand (code : Byte) (write : Bool)
  /-- TALLY_OPERAND_READ -/
  | tallyOperandRead (p : PartIx) (seq : Word) (block : Nat)
  /-- TOKEN_EVALUATION_DONE -/
  | tokenEvaluationDone
  /-- SEC_COMMAND_COMPLETE -/
  | secCommandComplete
  /-- SPDM_GET_VERSION -/
  | spdmGetVersion (f : Fn)
  /-- SPDM_GET_CAPABILITIES -/
  | spdmGetCapabilities (f : Fn)
  /-- SPDM_NEGOTIATE_ALGORITHMS -/
  | spdmNegotiateAlgorithms (f : Fn)
  /-- SPDM_FINISH -/
  | spdmFinish (f : Fn) (session : Nat)
  /-- SPDM_END_SESSION -/
  | spdmEndSession (f : Fn) (session : Nat)
  /-- TAP_SCAN -/
  | tapScan (dr : Bool) (bits : List Bool)
  deriving DecidableEq, Repr

end Sys2Proof
end

