-- ==== Sys2Proof/Config.lean ====
section
/-! DEFINITION. What the spec leaves open, as uninterpreted constants: nothing in Lean can evaluate one or prove
a value of one. `n` is always the number of the draw, taken from the counter `free` of the state (log 1). -/

namespace Sys2Proof.Config

/-- A value that the spec does not state (a counter's timing share, a learned sample, a random value): log 1. -/
opaque freeNat (n : Nat) : Nat
/-- The value of a byte whose contents are undefined (R23, R311, R281), by draw and address: log 6. -/
opaque freeByte (n a : Nat) : Byte
/-- Whether a translation that an invalidation has not yet dropped still serves an access to an address (R183): log 1. -/
opaque stale (n a : Nat) : Bool
/-- The byte of a function's host memory that nothing in the model has written (R180, R460): log 7. -/
opaque hostByte (f a : Nat) : Byte
/-- SHA-384, named by the spec as an outside standard (R499, R504, R509): log 8. -/
opaque sha384 (data : List Byte) : BitVec 384
/-- ECDSA P-384 verification over a SHA-384 digest (R499, R513): log 8. -/
opaque ecdsaVerify (key : List Byte) (digest : BitVec 384) (sig : List Byte) : Bool
/-- LMS verification of NIST SP 800-208 with the parameter set of R499: log 8. -/
opaque lmsVerify (key : List Byte) (msg sig : List Byte) : Bool
/-- ECDSA P-384 signature by a key of the module over a transcript hash (R506): log 8. -/
opaque ecdsaSign (key : BitVec 384) (digest : BitVec 384) : List Byte
/-- LMS signature with a one-time index (R506, R507): log 8. -/
opaque lmsSign (index : Nat) (digest : BitVec 384) : List Byte
/-- HMAC-SHA-384 (R504): log 8. -/
opaque hmac384 (key : BitVec 384) (data : List Byte) : BitVec 384
/-- The ROM digest (R504, R509), the key hashes in the fuses (R499), Lemram's factory key, whose hash is fused (R513), and the unique
device secret (R504): log 8. -/
opaque romDigest : BitVec 384
opaque fuseEcdsaHash : BitVec 384
opaque fuseLmsHash : BitVec 384
opaque factoryKey : List Byte
opaque uds : BitVec 384
/-- The firmware image in the module flash at manufacture (R498): log 3. -/
opaque flashByte (a : Nat) : Byte
/-- Byte k of the payload of an IDLE (0), NAK (1) or CTRL flit (2 and up, with its content), which the spec does not lay out: log 10. -/
opaque flitByte (what : Nat) (content : List Nat) (k : Nat) : Byte
/-- How many packets Tally's receive buffer holds (R399): the spec gives no size (log 52). -/
opaque tallyBuffer : Nat

/-- The certificate chain of slot 0 (R505), which the spec does not list: log 1. -/
opaque certByte (k : Nat) : Byte

end Sys2Proof.Config
end

