-- ==== Sys2Proof/Machine/Num.lean ====
section
/-! DEFINITION. Exact values and the fifteen number formats: layouts, block scales, rounding and conversions
(spec 02_number_formats, R47-R79). -/

namespace Sys2Proof.Machine

/-- The formats of R47, in the order of their codes 0x0 to 0xE. -/
inductive Fmt
  | fp32 | bf16 | fp16 | e4m3 | e5m2 | e3m2 | e2m3 | e2m1 | int8 | int4 | int16 | int32 | uint32 | e8m0 | sgn1
  deriving DecidableEq, Repr

/-- The format of a code (R47); code 0xF is reserved (R48). -/
def Fmt.ofCode : Nat → Option Fmt
  | 0 => some .fp32 | 1 => some .bf16 | 2 => some .fp16 | 3 => some .e4m3 | 4 => some .e5m2
  | 5 => some .e3m2 | 6 => some .e2m3 | 7 => some .e2m1 | 8 => some .int8 | 9 => some .int4
  | 10 => some .int16 | 11 => some .int32 | 12 => some .uint32 | 13 => some .e8m0 | 14 => some .sgn1
  | _ => none

/-- The code of a format (R47). -/
def Fmt.code : Fmt → Nat
  | .fp32 => 0 | .bf16 => 1 | .fp16 => 2 | .e4m3 => 3 | .e5m2 => 4 | .e3m2 => 5 | .e2m3 => 6 | .e2m1 => 7
  | .int8 => 8 | .int4 => 9 | .int16 => 10 | .int32 => 11 | .uint32 => 12 | .e8m0 => 13 | .sgn1 => 14

/-- Bits per element (R47). -/
def Fmt.bits : Fmt → Nat
  | .fp32 => 32 | .bf16 => 16 | .fp16 => 16 | .e4m3 => 8 | .e5m2 => 8 | .e3m2 => 6 | .e2m3 => 6 | .e2m1 => 4
  | .int8 => 8 | .int4 => 4 | .int16 => 16 | .int32 => 32 | .uint32 => 32 | .e8m0 => 8 | .sgn1 => 1

/-- How a format stands to block scales (R47). -/
inductive ScaleUse | never | optional | always | isScale
  deriving DecidableEq, Repr

def Fmt.scaleUse : Fmt → ScaleUse
  | .e4m3 | .e5m2 | .int8 | .int4 => .optional
  | .e3m2 | .e2m3 | .e2m1 | .sgn1 => .always
  | .e8m0 => .isScale
  | _ => .never

/-- Formats allowed as a matrix operand (R47). -/
def Fmt.matrixOk : Fmt → Bool
  | .bf16 | .fp16 | .e4m3 | .e5m2 | .e3m2 | .e2m3 | .e2m1 | .int8 | .int4 => true
  | _ => false

/-- Formats allowed in a semiring mode (R47). -/
def Fmt.semiringOk : Fmt → Bool
  | .bf16 | .fp16 | .int8 => true
  | _ => false

/-- Elements of one block of the format: 256 for SGN1, else 32 (R56, R57). -/
def Fmt.blockLen : Fmt → Nat
  | .sgn1 => 256
  | _ => 32

/-- The layout of a float format: exponent bits, fraction bits and bias (R50), and the code of the largest finite
value (R52). -/
structure FloatLayout where
  e : Nat
  m : Nat
  bias : Nat
  maxCode : Nat
  deriving DecidableEq, Repr

def Fmt.float? : Fmt → Option FloatLayout
  | .fp32 => some ⟨8, 23, 127, 0x7F7FFFFF⟩
  | .bf16 => some ⟨8, 7, 127, 0x7F7F⟩
  | .fp16 => some ⟨5, 10, 15, 0x7BFF⟩
  | .e4m3 => some ⟨4, 3, 7, 0x7E⟩
  | .e5m2 => some ⟨5, 2, 15, 0x7B⟩
  | .e3m2 => some ⟨3, 2, 3, 0x1F⟩
  | .e2m3 => some ⟨2, 3, 1, 0x1F⟩
  | .e2m1 => some ⟨2, 1, 1, 0x7⟩
  | _ => none

/-- The canonical NaN of a format (R50), where it has one. -/
def Fmt.nanCode : Fmt → Option Nat
  | .fp32 => some 0x7FC00000 | .bf16 => some 0x7FC0 | .fp16 => some 0x7E00
  | .e4m3 => some 0x7F | .e5m2 => some 0x7E | _ => none

/-- The positive infinity of a format (R50), where it has one. -/
def Fmt.infCode : Fmt → Option Nat
  | .fp32 => some 0x7F800000 | .bf16 => some 0x7F80 | .fp16 => some 0x7C00 | .e5m2 => some 0x7C | _ => none

/-- Range of an integer format (R54). -/
def Fmt.intRange : Fmt → Option (Int × Int)
  | .int4 => some (-8, 7) | .int8 => some (-128, 127) | .int16 => some (-32768, 32767)
  | .int32 => some (-2147483648, 2147483647) | .uint32 => some (0, 4294967295) | _ => none

/-- The largest exponent used in the choice of a scale (R62). -/
def Fmt.emax : Fmt → Int
  | .e4m3 => 8 | .e5m2 => 15 | .e3m2 => 4 | .e2m3 => 2 | .e2m1 => 2 | _ => 0

/-- An exact value: not a number, an infinity, a signed zero, or a finite non-zero `± n / d × 2^e` with `n`, `d` > 0. -/
inductive Num
  | nan
  | inf (neg : Bool)
  | zero (neg : Bool)
  | fin (neg : Bool) (n d : Nat) (e : Int)
  deriving DecidableEq, Repr

/-- `n × 2^k` for a signed `k` applied to the pair (n, d): the power goes to whichever side keeps naturals. -/
def scalePow (n d : Nat) (k : Int) : Nat × Nat :=
  if 0 ≤ k then (n * 2 ^ k.toNat, d) else (n, d * 2 ^ (-k).toNat)

/-- n / d rounded to nearest, ties to even (R64). -/
def rne (n d : Nat) : Nat :=
  let q := n / d
  let r := n % d
  if d < 2 * r ∨ (2 * r = d ∧ q % 2 = 1) then q + 1 else q

/-- `floor (log2 (n / d × 2^e))` for positive n and d. -/
def floorLog2 (n d : Nat) (e : Int) : Int :=
  let k : Int := (Nat.log2 n : Int) - Nat.log2 d
  let p := scalePow n d (-k)
  (if p.1 < p.2 then k - 1 else k) + e

/-- n / d × 2^e in units of 2^g, rounded (R64). -/
def rneGrid (n d : Nat) (e g : Int) : Nat :=
  let p := scalePow n d (e - g)
  rne p.1 p.2

namespace Num

def ofInt (i : Int) : Num := if i = 0 then .zero false else .fin (decide (i < 0)) i.natAbs 1 0

/-- ± n × 2^e. -/
def dyadic (neg : Bool) (n : Nat) (e : Int) : Num := if n = 0 then .zero neg else .fin neg n 1 e

def isNan : Num → Bool
  | .nan => true
  | _ => false

def isFinite : Num → Bool
  | .nan | .inf _ => false
  | _ => true

def isZero : Num → Bool
  | .zero _ => true
  | _ => false

def sign : Num → Bool
  | .nan => false
  | .inf s | .zero s | .fin s _ _ _ => s

def neg : Num → Num
  | .nan => .nan
  | .inf s => .inf !s
  | .zero s => .zero !s
  | .fin s n d e => .fin (!s) n d e

def abs : Num → Num
  | .nan => .nan
  | .inf _ => .inf false
  | .zero _ => .zero false
  | .fin _ n d e => .fin false n d e

/-- The exact value as a signed fraction `(i, d, e)` meaning `i / d × 2^e`; zero for the rest. -/
def frac : Num → Int × Nat × Int
  | .fin s n d e => (if s then -(n : Int) else n, d, e)
  | _ => (0, 1, 0)

/-- Exact sum of two fractions. -/
def addFrac (a b : Int × Nat × Int) : Int × Nat × Int :=
  let g := min a.2.2 b.2.2
  let x := a.1 * 2 ^ (a.2.2 - g).toNat
  let y := b.1 * 2 ^ (b.2.2 - g).toNat
  if a.2.1 = b.2.1 then (x + y, a.2.1, g) else (x * b.2.1 + y * a.2.1, a.2.1 * b.2.1, g)

/-- A fraction as a value; a zero takes the given sign. -/
def ofFrac (zeroSign : Bool) (a : Int × Nat × Int) : Num :=
  if a.1 = 0 then .zero zeroSign else .fin (decide (a.1 < 0)) a.1.natAbs a.2.1 a.2.2

def negZero : Num → Bool
  | .zero true => true
  | _ => false

/-- The exact sum of a list of terms (R77, R79): NaN if a term is NaN or infinities oppose; an exact zero is +0 unless
every term is −0. -/
def sum (xs : List Num) : Num :=
  let pos := xs.any (· == .inf false)
  let neg := xs.any (· == .inf true)
  if xs.any isNan || (pos && neg) then .nan
  else if pos then .inf false
  else if neg then .inf true
  else ofFrac (!xs.isEmpty && xs.all negZero) (xs.foldl (fun a x => addFrac a x.frac) (0, 1, 0))

def add (a b : Num) : Num := sum [a, b]
def sub (a b : Num) : Num := add a b.neg

/-- Exact product (R77, R79); infinity times zero has no value and is NaN. -/
def mul : Num → Num → Num
  | .nan, _ | _, .nan => .nan
  | .inf s, .zero _ => let _ := s; .nan
  | .zero s, .inf _ => let _ := s; .nan
  | .inf s, b => .inf (s ^^ b.sign)
  | a, .inf s => .inf (a.sign ^^ s)
  | .zero s, b => .zero (s ^^ b.sign)
  | a, .zero s => .zero (a.sign ^^ s)
  | .fin s n d e, .fin s' n' d' e' => .fin (s ^^ s') (n * n') (d * d') (e + e')

/-- Exact quotient; 0/0 and inf/inf are NaN, a finite over zero is an infinity. -/
def div : Num → Num → Num
  | .nan, _ | _, .nan => .nan
  | .inf _, .inf _ => .nan
  | .zero _, .zero _ => .nan
  | .inf s, b => .inf (s ^^ b.sign)
  | a, .inf s => .zero (a.sign ^^ s)
  | .zero s, b => .zero (s ^^ b.sign)
  | a, .zero s => .inf (a.sign ^^ s)
  | .fin s n d e, .fin s' n' d' e' => .fin (s ^^ s') (n * d') (d * n') (e - e')

/-- Exact order of two values that are not NaN: -0 equals +0 (R79). -/
def ltFin (a b : Num) : Bool :=
  let x := addFrac a.frac (b.neg.frac)
  decide (x.1 < 0)

def lt (a b : Num) : Bool :=
  match a, b with
  | .nan, _ | _, .nan => false
  | .inf s, .inf t => s && !t
  | .inf s, _ => s
  | _, .inf t => !t
  | _, _ => ltFin a b

/-- Equality of R78 and R79. -/
def eq (a b : Num) : Bool := !a.isNan && !b.isNan && !lt a b && !lt b a
def le (a b : Num) : Bool := lt a b || eq a b

/-- min and max of R77 and R79. -/
def min (a b : Num) : Num :=
  if a.isNan || b.isNan then .nan
  else if lt a b then a else if lt b a then b else if a.sign then a else b

def max (a b : Num) : Num :=
  if a.isNan || b.isNan then .nan
  else if lt a b then b else if lt b a then a else if a.sign then b else a

/-- `x × 2^k`. -/
def scale (x : Num) (k : Int) : Num :=
  match x with
  | .fin s n d e => .fin s n d (e + k)
  | x => x

/-- The value rounded to an integer, nearest even (R64, R68). -/
def toInt : Num → Int
  | .fin s n d e => let q : Int := rneGrid n d e 0; if s then -q else q
  | _ => 0

end Num

/-- The code, without its sign, of n / d × 2^e rounded on the format's grid as if its exponent were unbounded (R64): the
value overflows exactly when the code exceeds `maxCode` (R65). -/
def FloatLayout.encodeMag (l : FloatLayout) (n d : Nat) (e : Int) : Nat :=
  let emin : Int := 1 - l.bias
  let k := floorLog2 n d e
  let g := (if k < emin then emin else k) - l.m
  ((g - (emin - l.m)) * 2 ^ l.m).toNat + rneGrid n d e g

/-- The finite value of a code without its sign (R51). -/
def FloatLayout.decodeMag (l : FloatLayout) (neg : Bool) (c : Nat) : Num :=
  let ex := c / 2 ^ l.m
  let fr := c % 2 ^ l.m
  if ex = 0 then .dyadic neg fr (1 - l.bias - l.m)
  else .dyadic neg (2 ^ l.m + fr) ((ex : Int) - l.bias - l.m)

/-- The two's complement value of the low w bits. -/
def signedOf (w b : Nat) : Int :=
  let x := b % 2 ^ w
  if x < 2 ^ (w - 1) then x else (x : Int) - 2 ^ w

/-- The low w bits of an integer. -/
def lowBits (w : Nat) (i : Int) : Nat := (i % (2 ^ w : Nat)).toNat

/-- The value of an E8M0 code (R55). -/
def e8m0Value (c : Nat) : Num := if c = 0xFF then .nan else .fin false 1 1 ((c : Int) - 127)

/-- Value of an element without a block scale (R50, R51, R54, R55). SGN1 has no unscaled value: it reads as ±1. -/
def Fmt.decode (f : Fmt) (b : Nat) : Num :=
  match f.float? with
  | some l =>
    let c := b % 2 ^ (l.e + l.m)
    let neg := b.testBit (l.e + l.m)
    if f.infCode = some c then .inf neg
    else if l.maxCode < c then .nan
    else l.decodeMag neg c
  | none =>
    match f with
    | .uint32 => .ofInt (b % 2 ^ 32)
    | .e8m0 => e8m0Value (b % 256)
    | .sgn1 => .fin (b.testBit 0) 1 1 0
    | f => .ofInt (signedOf f.bits b)

/-- Value of an element in a block with scale code `x` (R56, R58, R59, R60). -/
def Fmt.decodeScaled (f : Fmt) (x b : Nat) : Num :=
  if x = 0xFF then .nan
  else
    let k : Int := (x : Int) - 127
    match f with
    | .int8 => (Num.ofInt (signedOf 8 b)).scale (k - 6)
    | .int4 => (Num.ofInt (signedOf 4 b)).scale (k - 2)
    | f => (f.decode b).scale k

/-- The OVF and SAT fields of an instruction (R66, R68). -/
structure ConvMode where
  ovfInf : Bool := false
  sat : Bool := true
  deriving DecidableEq, Repr

/-- One converted element with the marks of R66, R68, R70, R72. -/
structure Conv where
  bits : Nat
  saturated : Bool := false
  zeroed : Bool := false
  nonfinite : Bool := false
  deriving DecidableEq, Repr

/-- Conversion into an unscaled float format (R64-R66, R70, R71). -/
def FloatLayout.convert (l : FloatLayout) (f : Fmt) (mode : ConvMode) (x : Num) : Conv :=
  let sb := fun (s : Bool) => if s then 2 ^ (l.e + l.m) else 0
  match x with
  | .nan => { bits := f.nanCode.getD 0, nonfinite := true }
  | .inf s =>
    match f.infCode with
    | some c => { bits := c + sb s, nonfinite := true }
    | none => { bits := f.nanCode.getD 0, nonfinite := true }
  | .zero s => { bits := sb s }
  | .fin s n d e =>
    let c := l.encodeMag n d e
    if l.maxCode < c then
      match mode.ovfInf, f.infCode with
      | true, some i => { bits := i + sb s, nonfinite := true }
      | _, _ => { bits := l.maxCode + sb s, saturated := true }
    else { bits := c + sb s, zeroed := decide (c = 0) }

/-- Conversion into an integer format (R68, R70, R71). -/
def Fmt.convertInt (f : Fmt) (mode : ConvMode) (x : Num) : Conv :=
  let r := f.intRange.getD (0, 0)
  match x with
  | .nan => { bits := 0, nonfinite := true }
  | .inf s =>
    { bits := if mode.sat then lowBits f.bits (if s then r.1 else r.2) else 0, nonfinite := true }
  | .zero _ => { bits := 0 }
  | x =>
    let i := x.toInt
    if i < r.1 ∨ r.2 < i then
      if mode.sat then { bits := lowBits f.bits (if i < r.1 then r.1 else r.2), saturated := true }
      else { bits := lowBits f.bits i }
    else { bits := lowBits f.bits i, zeroed := decide (i = 0) }

/-- Conversion into E8M0 (R71, R75). -/
def convertE8m0 (x : Num) : Conv :=
  match x with
  | .nan | .inf _ => { bits := 0xFF, nonfinite := true }
  | .zero _ => { bits := 0 }
  | .fin _ n d e =>
    let k := floorLog2 n d e
    if k < -127 then { bits := 0 }
    else
      -- compare with 1.5 × 2^k, which is 3 × 2^(k-1)
      let p := scalePow n d (e - (k - 1))
      let up := decide (3 * p.2 < p.1) || (decide (p.1 = 3 * p.2) && decide ((k + 127) % 2 = 1))
      let k' := if up then k + 1 else k
      if 127 < k' then { bits := 0xFE, saturated := true } else { bits := (k' + 127).toNat }

/-- Conversion of one value into an unscaled element. A SGN1 element takes the sign bit (R76). -/
def Fmt.convert (f : Fmt) (mode : ConvMode) (x : Num) : Conv :=
  match f.float? with
  | some l => l.convert f mode x
  | none =>
    match f with
    | .e8m0 => convertE8m0 x
    | .sgn1 => { bits := if x.sign then 1 else 0, nonfinite := !x.isFinite }
    | f => f.convertInt mode x

/-- The sign bit of a float element, above its magnitude code. -/
def Fmt.signBit (f : Fmt) (s : Bool) : Nat :=
  match f.float? with
  | some l => if s then 2 ^ (l.e + l.m) else 0
  | none => 0

/-- Magnitude code of n / d × 2^e in the element grid of a scaled format, and the largest finite one (R58, R60, R65). -/
def Fmt.scaledMag (f : Fmt) (n d : Nat) (e : Int) : Nat × Nat :=
  match f with
  | .int8 => (rneGrid n d e (-6), 127)
  | .int4 => (rneGrid n d e (-2), 7)
  | f =>
    match f.float? with
    | some l => (l.encodeMag n d e, l.maxCode)
    | none => (0, 0)

/-- Conversion of a finite value into a block-scaled element under a scale code other than 0xFF (R58, R60, R69, R70). -/
def Fmt.convertScaled (f : Fmt) (x : Nat) (v : Num) : Conv :=
  match f, v with
  | .sgn1, v => { bits := if v.sign then 1 else 0 }
  | f, .fin s n d e =>
    let p := f.scaledMag n d (e - ((x : Int) - 127))
    let c := if p.2 < p.1 then p.2 else p.1
    let bits := match f with
      | .int8 | .int4 => lowBits f.bits (if s then -(c : Int) else c)
      | f => c + f.signBit s
    { bits := bits, saturated := decide (p.2 < p.1), zeroed := decide (c = 0) }
  | f, v => { bits := f.signBit v.sign }

/-- The larger of two magnitudes. -/
def maxMag (a b : Num) : Num := if Num.lt a b.abs then b.abs else a

/-- The scale code that the module chooses for a block of finite values (R62). -/
def Fmt.chooseScale (f : Fmt) (vs : List Num) : Nat :=
  match vs.foldl maxMag (.zero false) with
  | .fin _ n d e =>
    let k0 := floorLog2 n d e - f.emax
    let k := if k0 < -127 then -127 else if 127 < k0 then 127 else k0
    let p := f.scaledMag n d (e - k)
    let k' := if p.2 < p.1 ∧ k < 127 then k + 1 else k
    (k' + 127).toNat
  | _ => 0

/-- How the scale of a block is come by: chosen, or supplied. -/
inductive ScaleSrc | chosen | supplied (code : Nat)
  deriving DecidableEq, Repr

/-- One block converted into a scaled format: the scale code that stands for the block and its elements (R57-R62,
R69-R72, R76). -/
def Fmt.convertBlock (f : Fmt) (src : ScaleSrc) (vs : List Num) : Nat × List Conv :=
  let bad := vs.any (fun v => !v.isFinite)
  if bad then
    let sc := match f, src with
      | .sgn1, .supplied c => c
      | _, _ => 0xFF
    (sc, vs.map fun v => { bits := 0, nonfinite := !v.isFinite })
  else
    let sc := match src with
      | .chosen => f.chooseScale vs
      | .supplied c => c
    if sc = 0xFF then (sc, vs.map fun _ => { bits := 0 })
    else (sc, vs.map (f.convertScaled sc))

/-- FP32 rounding of an exact value, as the bits that hold it: overflow gives an infinity (`ovfInf`) or the largest
finite value (R66). -/
def toFp32 (mode : ConvMode) (x : Num) : Conv := Fmt.fp32.convert mode x

/-- The value that an FP32 result register holds after rounding. -/
def roundFp32 (mode : ConvMode) (x : Num) : Num := Fmt.fp32.decode (toFp32 mode x).bits

/-- Marks of a set of converted elements, as counts: saturated, zeroed, non-finite (R66-R72). -/
structure Marks where
  saturated : Nat := 0
  zeroed : Nat := 0
  nonfinite : Nat := 0
  deriving DecidableEq, Repr

def Marks.add (a b : Marks) : Marks :=
  ⟨a.saturated + b.saturated, a.zeroed + b.zeroed, a.nonfinite + b.nonfinite⟩

def Marks.ofConvs (cs : List Conv) : Marks :=
  ⟨(cs.filter (·.saturated)).length, (cs.filter (·.zeroed)).length, (cs.filter (·.nonfinite)).length⟩

/-- Packing of elements into bytes from the least significant bit upward (R49): the element bits as one little-endian
number. -/
def packBits (w : Nat) (es : List Nat) : Nat := es.foldr (fun e acc => e % 2 ^ w + acc * 2 ^ w) 0

/-- The n bytes of a number, least significant first. -/
def bytesOf (n v : Nat) : List Byte := (List.range n).map fun k => BitVec.ofNat 8 (v / 256 ^ k)

/-- The number that a list of bytes spells, least significant first. -/
def natOf (bs : List Byte) : Nat := bs.foldr (fun b acc => b.toNat + 256 * acc) 0

end Sys2Proof.Machine
end

