-- ==== Sys2Proof/Machine/Hololo.lean ====
section
/-! DEFINITION. The 128-bit instruction words of the cores: their layouts, the decoder that rejects every word that R235
calls invalid, and the encoder (spec 07_instruction_encoding, R232-R267). -/

namespace Sys2Proof.Machine

/-- The two output tile buffers (R92). -/
inductive TileBuf | bufA | bufB
  deriving DecidableEq, Repr

def TileBuf.code : TileBuf → Nat
  | .bufA => 0
  | .bufB => 1

def TileBuf.ofCode (n : Nat) : TileBuf := if n = 0 then .bufA else .bufB

def TileBuf.other : TileBuf → TileBuf
  | .bufA => .bufB
  | .bufB => .bufA

/-- An operand specifier (R239). `loc v` is byte address 8 × v of the core's local memory. -/
inductive Opd
  | slot (n : Nat)
  | loc (v : Nat)
  | tile (buf : TileBuf) (row : Nat)
  | none
  deriving DecidableEq, Repr

/-- The 20 bits of an operand specifier. -/
def Opd.encode : Opd → Nat
  | .slot n => n
  | .loc v => 2 ^ 18 + v
  | .tile b r => 2 * 2 ^ 18 + b.code * 256 + r
  | .none => 3 * 2 ^ 18

/-- The operand that 20 bits name; none where a bit that must be 0 is set. -/
def Opd.decode (x : Nat) : Option Opd :=
  let k := x / 2 ^ 18
  let v := x % 2 ^ 18
  if k = 0 then (if v < 16 then some (.slot v) else Option.none)
  else if k = 1 then some (.loc v)
  else if k = 2 then (if v < 512 then some (.tile (TileBuf.ofCode (v / 256)) (v % 256)) else Option.none)
  else if k = 3 then (if v = 0 then some .none else Option.none)
  else Option.none

/-- The values that the 20 bits can hold. -/
def Opd.wf : Opd → Bool
  | .slot n => decide (n < 16)
  | .loc v => decide (v < 2 ^ 18)
  | .tile _ r => decide (r < 256)
  | .none => true

def Opd.isNone : Opd → Bool
  | .none => true
  | _ => false

def Opd.isLoc : Opd → Bool
  | .loc _ => true
  | _ => false

def Opd.isTile : Opd → Bool
  | .tile _ _ => true
  | _ => false

/-- The cell operations of a pass (R83, R104). -/
inductive Semi | mulAdd | addMin | addMax | absDiffAdd | sqDiffAdd | eqCount | gtCount
  deriving DecidableEq, Repr

def Semi.code : Semi → Nat
  | .mulAdd => 0 | .addMin => 1 | .addMax => 2 | .absDiffAdd => 3 | .sqDiffAdd => 4 | .eqCount => 5 | .gtCount => 6

def Semi.ofCode : Nat → Option Semi
  | 0 => some .mulAdd | 1 => some .addMin | 2 => some .addMax | 3 => some .absDiffAdd | 4 => some .sqDiffAdd
  | 5 => some .eqCount | 6 => some .gtCount | _ => none

/-- LETOUT_SCOPE (R119). -/
inductive Scope | off | tile | layer
  deriving DecidableEq, Repr

def Scope.code : Scope → Nat
  | .off => 0 | .tile => 1 | .layer => 2

def Scope.ofCode : Nat → Option Scope
  | 0 => some .off | 1 => some .tile | 2 => some .layer | _ => none

/-- The fields of MPASS (R83, R241). -/
structure MpassOp where
  fmt : Fmt
  scaled : Bool
  semi : Semi
  add : Bool
  buf : TileBuf
  sat : Bool
  tw : Bool
  ta : Bool
  scope : Scope
  mM1 : Nat
  wSlot : Nat
  aSlot : Nat
  deriving DecidableEq, Repr

def MpassOp.m (o : MpassOp) : Nat := o.mM1 + 1

/-- The opcodes of the VECTOR general layout (R238, R243). -/
inductive VecKind | vbin | vun | vfma | vred | vseg | vscatadd | vtopk | vsort | vhist
  deriving DecidableEq, Repr

def VecKind.opcode : VecKind → Nat
  | .vbin => 0x20 | .vun => 0x21 | .vfma => 0x22 | .vred => 0x23 | .vseg => 0x24 | .vscatadd => 0x25
  | .vtopk => 0x26 | .vsort => 0x27 | .vhist => 0x28

def VecKind.ofOpcode : Nat → Option VecKind
  | 0x20 => some .vbin | 0x21 => some .vun | 0x22 => some .vfma | 0x23 => some .vred | 0x24 => some .vseg
  | 0x25 => some .vscatadd | 0x26 => some .vtopk | 0x27 => some .vsort | 0x28 => some .vhist | _ => none

/-- Opcodes whose bits [35:16] are a third operand (R245). -/
def VecKind.threeOpd : VecKind → Bool
  | .vbin | .vun | .vfma => true
  | _ => false

/-- The fields of a VECTOR general word (R243). `c` is used by the three-operand opcodes, `param` by the others. -/
structure VecOp where
  kind : VecKind
  func : Nat
  sfmt : Fmt
  dfmt : Fmt
  ovf : Bool
  sat : Bool
  bscal : Bool
  dst : Opd
  a : Opd
  b : Opd
  c : Opd
  param : Nat
  countM1 : Nat
  deriving DecidableEq, Repr

def VecOp.count (o : VecOp) : Nat := o.countM1 + 1
def VecOp.mode (o : VecOp) : ConvMode := { ovfInf := o.ovf, sat := o.sat }

/-- The opcodes of the DESCRIPTOR layout (R246). -/
inductive DescKind | update | bind | sample
  deriving DecidableEq, Repr

def DescKind.opcode : DescKind → Nat
  | .update => 0x29 | .bind => 0x30 | .sample => 0x33

/-- The REDUCE-class opcodes (R253). -/
inductive RedKind | allreduce | reduceScatter | allgather | scalePrepass | stepClose
  deriving DecidableEq, Repr

def RedKind.opcode : RedKind → Nat
  | .allreduce => 0x50 | .reduceScatter => 0x51 | .allgather => 0x52 | .scalePrepass => 0x53 | .stepClose => 0x54

/-- A decoded instruction word (R238). A field that the spec writes "minus 1" is held as it stands in the word. -/
inductive HInstr
  | nop
  | endOp
  | loop (body countM1 : Nat)
  | mpass (o : MpassOp)
  | vec (o : VecOp)
  | desc (k : DescKind) (sub comp : Nat) (perCore dva : Bool) (addr : Nat)
  | unbind (slot : Nat) (all : Bool)
  | rearm (slot which : Nat) (add : Bool) (addr : Nat)
  | move (sfmt dfmt : Fmt) (ovf sat bcast : Bool) (dst src : Opd) (countM1 : Nat)
  | fill (dfmt : Fmt) (dst : Opd) (imm countM1 : Nat)
  | reduce (k : RedKind) (mode group gate desc : Nat)
  | wait (gate value : Nat)
  | signal (gate inc : Nat)
  | barrier (id : Nat)
  | statRead (first countM1 : Nat) (dva : Bool) (dst : Nat)
  | statSnap (dst : Nat)
  deriving DecidableEq, Repr

def b2n (b : Bool) : Nat := if b then 1 else 0

/-- Fields packed from the least significant bit upward: (width, value) pairs. -/
def packFields : List (Nat × Nat) → Nat
  | [] => 0
  | (k, v) :: r => v + 2 ^ k * packFields r

/-- The values of fields of the given widths, from the least significant bit upward. -/
def unpackFields : List Nat → Nat → List Nat
  | [], _ => []
  | k :: r, w => w % 2 ^ k :: unpackFields r (w / 2 ^ k)

/-- The fields of an instruction word, from bit 0 up, reserved fields included (R241-R260). -/
def HInstr.fields : HInstr → List (Nat × Nat)
  | .nop => [(120, 0), (8, 0x01)]
  | .endOp => [(120, 0), (8, 0x02)]
  | .loop b n => [(96, 0), (8, b), (16, n), (8, 0x03)]
  | .mpass o =>
    [(88, 0), (4, o.aSlot), (4, o.wSlot), (8, o.mM1), (1, 0), (2, o.scope.code), (1, b2n o.ta), (1, b2n o.tw),
     (1, b2n o.sat), (1, o.buf.code), (1, b2n o.add), (3, o.semi.code), (1, b2n o.scaled), (4, o.fmt.code), (8, 0x10)]
  | .vec o =>
    (if o.kind.threeOpd then [(16, o.countM1), (20, o.c.encode)] else [(21, o.countM1), (15, o.param)]) ++
    [(20, o.b.encode), (20, o.a.encode), (20, o.dst.encode), (5, 0), (1, b2n o.bscal), (1, b2n o.sat), (1, b2n o.ovf),
     (4, o.dfmt.code), (4, o.sfmt.code), (8, o.func), (8, o.kind.opcode)]
  | .desc k sub comp pc dva addr =>
    [(56, 0), (56, addr), (1, b2n dva), (1, b2n pc), (2, comp), (4, sub), (8, k.opcode)]
  | .unbind s all => [(115, 0), (1, b2n all), (4, s), (8, 0x31)]
  | .rearm s w add addr => [(56, 0), (56, addr), (1, b2n add), (2, w), (1, 0), (4, s), (8, 0x32)]
  | .move sf df ovf sat bc dst src n =>
    [(21, n), (35, 0), (20, src.encode), (20, dst.encode), (13, 0), (1, b2n bc), (1, b2n sat), (1, b2n ovf),
     (4, df.code), (4, sf.code), (8, 0x40)]
  | .fill df dst imm n =>
    [(21, n), (32, imm), (23, 0), (20, dst.encode), (16, 0), (4, df.code), (4, 0), (8, 0x41)]
  | .reduce k mode group gate dsc =>
    [(40, 0), (56, dsc), (4, 0), (12, gate), (4, group), (4, mode), (8, k.opcode)]
  | .wait g v => [(64, 0), (32, v), (12, 0), (12, g), (8, 0x60)]
  | .signal g i => [(48, 0), (16, i), (44, 0), (12, g), (8, 0x61)]
  | .barrier id => [(100, 0), (8, id), (12, 0), (8, 0x62)]
  | .statRead f n dva dst => [(39, 0), (56, dst), (1, b2n dva), (12, n), (12, f), (8, 0x70)]
  | .statSnap d => [(56, 0), (20, d), (44, 0), (8, 0x71)]

/-- The word of an instruction. -/
def encodeWord (i : HInstr) : Nat := packFields i.fields

/-- The field widths of an opcode, from bit 0 up (R238). -/
def layoutOf (op : Nat) : Option (List Nat) :=
  match op with
  | 0x01 | 0x02 => some [120, 8]
  | 0x03 => some [96, 8, 16, 8]
  | 0x10 => some [88, 4, 4, 8, 1, 2, 1, 1, 1, 1, 1, 3, 1, 4, 8]
  | 0x20 | 0x21 | 0x22 => some [16, 20, 20, 20, 20, 5, 1, 1, 1, 4, 4, 8, 8]
  | 0x23 | 0x24 | 0x25 | 0x26 | 0x27 | 0x28 => some [21, 15, 20, 20, 20, 5, 1, 1, 1, 4, 4, 8, 8]
  | 0x29 | 0x30 | 0x33 => some [56, 56, 1, 1, 2, 4, 8]
  | 0x31 => some [115, 1, 4, 8]
  | 0x32 => some [56, 56, 1, 2, 1, 4, 8]
  | 0x40 => some [21, 35, 20, 20, 13, 1, 1, 1, 4, 4, 8]
  | 0x41 => some [21, 32, 23, 20, 16, 4, 4, 8]
  | 0x50 | 0x51 | 0x52 | 0x53 | 0x54 => some [40, 56, 4, 12, 4, 4, 8]
  | 0x60 => some [64, 32, 12, 12, 8]
  | 0x61 => some [48, 16, 44, 12, 8]
  | 0x62 => some [100, 8, 12, 8]
  | 0x70 => some [39, 56, 1, 12, 12, 8]
  | 0x71 => some [56, 20, 44, 8]
  | _ => none

/-- The opcode of a word (R234). -/
def opcodeOf (w : Nat) : Nat := w / 2 ^ 120 % 256

/-- The vector operation of the unpacked fields, where the formats, operands and reserved bits exist. -/
def vecOfFields (k : VecKind) (low mid b a d rsv bs sat ovf df sf func : Nat) : Option HInstr :=
  match Fmt.ofCode sf, Fmt.ofCode df, Opd.decode b, Opd.decode a, Opd.decode d with
  | some sfmt, some dfmt, some ob, some oa, some od =>
    if rsv ≠ 0 then none
    else if k.threeOpd then
      match Opd.decode mid with
      | some oc => some (.vec { kind := k, func := func, sfmt := sfmt, dfmt := dfmt, ovf := ovf == 1, sat := sat == 1, bscal := bs == 1, dst := od, a := oa, b := ob, c := oc, param := 0, countM1 := low })
      | none => none
    else some (.vec { kind := k, func := func, sfmt := sfmt, dfmt := dfmt, ovf := ovf == 1, sat := sat == 1, bscal := bs == 1, dst := od, a := oa, b := ob, c := .none, param := mid, countM1 := low })
  | _, _, _, _, _ => none

/-- The instruction that unpacked fields spell, with reserved bits and field codes checked (R235). -/
def ofFields (op : Nat) (fs : List Nat) : Option HInstr :=
  match op, fs with
  | 0x01, [r, _] => if r = 0 then some .nop else none
  | 0x02, [r, _] => if r = 0 then some .endOp else none
  | 0x03, [r, b, n, _] => if r = 0 then some (.loop b n) else none
  | 0x10, [r, as, ws, m, r1, sc, ta, tw, sat, buf, add, semi, scl, f, _] =>
    match Scope.ofCode sc, Semi.ofCode semi, Fmt.ofCode f with
    | some scope, some se, some fmt =>
      if r = 0 ∧ r1 = 0 then
        some (.mpass { fmt := fmt, scaled := scl == 1, semi := se, add := add == 1, buf := TileBuf.ofCode buf, sat := sat == 1, tw := tw == 1, ta := ta == 1, scope := scope, mM1 := m, wSlot := ws, aSlot := as })
      else none
    | _, _, _ => none
  | 0x29, [r, addr, dva, pc, comp, sub, _] =>
    if r = 0 then some (.desc .update sub comp (pc == 1) (dva == 1) addr) else none
  | 0x30, [r, addr, dva, pc, comp, sub, _] =>
    if r = 0 then some (.desc .bind sub comp (pc == 1) (dva == 1) addr) else none
  | 0x33, [r, addr, dva, pc, comp, sub, _] =>
    if r = 0 then some (.desc .sample sub comp (pc == 1) (dva == 1) addr) else none
  | 0x31, [r, all, s, _] => if r = 0 then some (.unbind s (all == 1)) else none
  | 0x32, [r, addr, add, w, r1, s, _] => if r = 0 ∧ r1 = 0 then some (.rearm s w (add == 1) addr) else none
  | 0x40, [n, r, src, dst, r1, bc, sat, ovf, df, sf, _] =>
    match Fmt.ofCode sf, Fmt.ofCode df, Opd.decode dst, Opd.decode src with
    | some sfmt, some dfmt, some od, some os =>
      if r = 0 ∧ r1 = 0 then some (.move sfmt dfmt (ovf == 1) (sat == 1) (bc == 1) od os n) else none
    | _, _, _, _ => none
  | 0x41, [n, imm, r, dst, r1, df, r2, _] =>
    match Fmt.ofCode df, Opd.decode dst with
    | some dfmt, some od => if r = 0 ∧ r1 = 0 ∧ r2 = 0 then some (.fill dfmt od imm n) else none
    | _, _ => none
  | 0x50, [r, d, r1, g, gr, m, _] => if r = 0 ∧ r1 = 0 then some (.reduce .allreduce m gr g d) else none
  | 0x51, [r, d, r1, g, gr, m, _] => if r = 0 ∧ r1 = 0 then some (.reduce .reduceScatter m gr g d) else none
  | 0x52, [r, d, r1, g, gr, m, _] => if r = 0 ∧ r1 = 0 then some (.reduce .allgather m gr g d) else none
  | 0x53, [r, d, r1, g, gr, m, _] => if r = 0 ∧ r1 = 0 then some (.reduce .scalePrepass m gr g d) else none
  | 0x54, [r, d, r1, g, gr, m, _] => if r = 0 ∧ r1 = 0 then some (.reduce .stepClose m gr g d) else none
  | 0x60, [r, v, r1, g, _] => if r = 0 ∧ r1 = 0 then some (.wait g v) else none
  | 0x61, [r, i, r1, g, _] => if r = 0 ∧ r1 = 0 then some (.signal g i) else none
  | 0x62, [r, id, r1, _] => if r = 0 ∧ r1 = 0 then some (.barrier id) else none
  | 0x70, [r, d, dva, n, f, _] => if r = 0 then some (.statRead f n (dva == 1) d) else none
  | 0x71, [r, d, r1, _] => if r = 0 ∧ r1 = 0 then some (.statSnap d) else none
  | op, [low, mid, b, a, d, rsv, bs, sat, ovf, df, sf, func, _] =>
    match VecKind.ofOpcode op with
    | some k => vecOfFields k low mid b a d rsv bs sat ovf df sf func
    | none => none
  | _, _ => none

/-- Fs of R267: the unscaled float formats of the vector unit. -/
def Fmt.vecFloat : Fmt → Bool
  | .fp32 | .bf16 | .fp16 | .e4m3 | .e5m2 => true
  | _ => false

/-- I of R267. -/
def Fmt.vecInt : Fmt → Bool
  | .int8 | .int16 | .int32 | .uint32 => true
  | _ => false

def Fmt.vecAny (f : Fmt) : Bool := f.vecFloat || f.vecInt

/-- The combinations of FUNC, SFMT and DFMT that the vector unit admits (R244, R267). -/
def VecOp.admitted (o : VecOp) : Bool :=
  let fi := o.sfmt.vecAny && o.dfmt.vecAny
  let ff := o.sfmt.vecFloat && o.dfmt.vecFloat
  let sumOk := ff || (o.sfmt.vecInt && (o.dfmt == .int32 || o.dfmt == .fp32))
  let selOk := o.sfmt.vecAny && (o.dfmt == o.sfmt || o.dfmt == .fp32)
  match o.kind with
  | .vbin =>
    if o.func ≤ 2 ∨ o.func = 4 ∨ o.func = 5 then fi
    else if o.func = 3 then ff
    else if o.func ≤ 0xB then fi
    else if o.func ≤ 0xE then o.sfmt.vecInt && o.dfmt == o.sfmt
    else false
  | .vun =>
    if o.func ≤ 1 ∨ o.func = 9 then fi else if o.func ≤ 8 then ff else false
  | .vfma => o.func == 0 && ff
  | .vred => if o.func ≤ 1 then sumOk else if o.func ≤ 4 then selOk else false
  | .vseg =>
    if o.func = 0 then sumOk else if o.func ≤ 2 then selOk
    else if o.func = 3 then o.sfmt.vecAny && o.dfmt.vecFloat else false
  | .vscatadd => o.func == 0 && (ff || (o.sfmt.vecInt && o.dfmt.vecInt))
  | .vtopk => o.func == 0 && o.sfmt.vecAny && o.dfmt == o.sfmt
  | .vsort => o.func == 0 && (o.sfmt == .fp32 || o.sfmt == .int32 || o.sfmt == .uint32) && o.dfmt == o.sfmt
  | .vhist => o.func == 0 && o.sfmt == .uint32 && o.dfmt == .uint32

/-- A TILE operand has format FP32 or INT32 and stays inside its buffer (R239). `n` is the elements it holds. -/
def Opd.tileOk (o : Opd) (f : Fmt) (n : Nat) : Bool :=
  match o with
  | .tile _ r => (f == .fp32 || f == .int32) && decide (64 * r + n ≤ 64 * 256)
  | _ => true

/-- Elements of SRC_A and of DST (R245); VSEG's destination is settled when it runs. -/
def VecOp.rowElems (o : VecOp) : Nat :=
  match o.kind with
  | .vseg | .vscatadd => o.param + 1
  | _ => 1

def VecOp.topK (o : VecOp) : Nat := o.param % 64 + 1
def VecOp.topSmallest (o : VecOp) : Bool := o.param.testBit 6
def VecOp.lists (o : VecOp) : Nat := o.param / 128 + 1
def VecOp.bins (o : VecOp) : Nat := o.param + 1

def VecOp.srcElems (o : VecOp) : Nat :=
  match o.kind with
  | .vtopk => o.count * o.lists
  | _ => o.count * o.rowElems

/-- Operand roles of R245, with the TILE rule of R239. -/
def VecOp.operandsOk (o : VecOp) : Bool :=
  let n := o.srcElems
  let srcA := !o.a.isNone && o.a.tileOk o.sfmt n
  match o.kind with
  | .vbin => srcA && !o.b.isNone && o.c.isNone && !o.dst.isNone && o.b.tileOk o.sfmt (if o.bscal then 1 else n) && o.dst.tileOk o.dfmt n
  | .vun => srcA && o.b.isNone && o.c.isNone && !o.dst.isNone && o.dst.tileOk o.dfmt n && !o.bscal
  | .vfma => srcA && !o.b.isNone && !o.c.isNone && !o.dst.isNone && o.b.tileOk o.sfmt (if o.bscal then 1 else n) && o.c.tileOk o.sfmt n && o.dst.tileOk o.dfmt n
  | .vred => srcA && o.b.isNone && !o.dst.isNone && o.dst.tileOk o.dfmt 1 && o.param == 0 && !o.bscal
  | .vseg => srcA && !o.b.isNone && o.b.tileOk .uint32 o.count && !o.dst.isNone && o.dst.tileOk o.dfmt 1 && !o.bscal
  | .vscatadd => srcA && !o.b.isNone && o.b.tileOk .uint32 o.count && o.dst.isLoc && !o.bscal
  | .vtopk => srcA && o.b.isNone && !o.dst.isNone && !o.dst.isTile && decide (o.topK ≤ o.count) && !o.bscal
  | .vsort => o.a.isLoc && (o.b.isLoc || o.b.isNone) && o.dst.isNone && decide (o.param ≤ 1) && !o.bscal
  | .vhist => srcA && o.b.tileOk .uint32 n && !o.dst.isNone && o.dst.tileOk .uint32 (o.bins + 1) && !o.bscal

/-- The pass combinations of R82, R104 and the first three conditions of R120, with R241's slots. -/
def MpassOp.ok (o : MpassOp) : Bool :=
  o.fmt.matrixOk &&
  (match o.fmt with
   | .bf16 | .fp16 => !o.scaled
   | .e3m2 | .e2m3 | .e2m1 => o.scaled
   | _ => true) &&
  (o.semi == .mulAdd || (o.fmt.semiringOk && !o.scaled)) &&
  (o.scope == .off ||
    (o.semi == .mulAdd && o.scaled && (o.fmt == .e2m1 || o.fmt == .e2m3 || o.fmt == .e4m3 || o.fmt == .int4 || o.fmt == .int8))) &&
  o.wSlot != o.aSlot

/-- Formats that MOVE and FILL carry without a scale only unconverted (R249). -/
def Fmt.moveScaleOnly : Fmt → Bool
  | .e3m2 | .e2m3 | .e2m1 | .sgn1 => true
  | _ => false

/-- Everything that the word alone decides, beyond reserved bits and field codes (R239-R260). -/
def HInstr.ok : HInstr → Bool
  | .nop | .endOp => true
  | .loop b _ => decide (b ≠ 0)
  | .mpass o => o.ok
  | .vec o => o.admitted && o.operandsOk
  | .desc k sub comp _ _ addr =>
    decide (addr % 64 = 0) &&
    (match k with
     | .update => decide (sub ≤ 1) && decide (comp ≤ 2)
     | .bind => comp == 0
     | .sample => sub == 0 && comp == 0)
  | .unbind s all => !all || s == 0
  | .rearm _ w _ _ => decide (w ≠ 3)
  | .move sf df _ _ bc dst src n =>
    !dst.isNone && !src.isNone && dst.tileOk df (n + 1) && src.tileOk sf (if bc then 64 else n + 1) &&
    (sf == df || (!sf.moveScaleOnly && !df.moveScaleOnly)) && (!bc || (n + 1) % 64 == 0)
  | .fill df dst imm n =>
    (dst.isLoc || dst.isTile) && dst.tileOk df (n + 1) && decide (imm < 2 ^ df.bits)
  | .reduce k mode group _ dsc =>
    decide (group ≤ 4) &&
    (match k with
     | .allreduce | .reduceScatter => decide (mode ≤ 2) && dsc % 64 == 0
     | .allgather => mode == 0 && dsc % 64 == 0
     | .scalePrepass => (mode == 1 || mode == 2) && dsc % 64 == 0
     | .stepClose => mode == 0 && group == 4 && dsc == 0)
  | .wait _ _ => true
  | .signal _ i => decide (i ≠ 0)
  | .barrier _ => true
  | .statRead _ _ _ dst => dst % 64 == 0
  | .statSnap d => (Opd.decode d).any Opd.isLoc

/-- The decoder: none for an invalid encoding (R235, R265). -/
def decodeWord (w : Nat) : Option HInstr :=
  match layoutOf (opcodeOf w) with
  | none => none
  | some ws =>
    match ofFields (opcodeOf w) (unpackFields ws w) with
    | some i => if i.ok then some i else none
    | none => none

/-- An instruction whose fields fit their bits and that the word alone does not make invalid. -/
def HInstr.wf (i : HInstr) : Bool :=
  i.fields.all (fun p => decide (p.2 < 2 ^ p.1)) && i.ok &&
  (match i with
   | .vec o => o.dst.wf && o.a.wf && o.b.wf && o.c.wf && (if o.kind.threeOpd then o.param == 0 else o.c == .none)
   | .move _ _ _ _ _ d s _ => d.wf && s.wf
   | .fill _ d _ _ => d.wf
   | _ => true)

end Sys2Proof.Machine
end

