-- ==== Sys2Proof/Machine/RegMap.lean ====
section
/-! DEFINITION. The registers of BAR0: names, addresses, fields, access codes, reset values and guards, one row for each
register of the index (spec 17_register_map R549-R553 and the field tables the index names). -/

namespace Sys2Proof.Machine

/-- The registers of R550 to R553. -/
inductive RegName
  | genId | genVersion | cfgErr | cfgErrAddr | genTopology | genRefTime
  | genRefTimeLoad | genStartup | hostExec | hostCfgCommit | hostCfgStaged | hostJobSeed
  | hostTrainCfg | hostTrainIrq | hostTrainStep | hostTrainApplied | hostTrainBasteBase | hostTrainBasteSize
  | hostTrainWatch | hostTrainParam | hostTrainCtrl | hostTrainRec | hostTrainStatus | hostQBase
  | hostQCplBase | hostQCtrl | hostQHead | hostQTail | hostQCplHead | hostQCplTail
  | hostQStatus | hostQPasid | hostGate | hostGateAdd | hostPortStatus | hostPartCfg
  | hostPartCommit | hostPartStaged | hostMgmt | hostMgmtCmd | hostAbort | hostAbortStatus
  | hostBar4Win | pwrState | pwrCmd | pwrCapHost | pwrLimits | pwrShed
  | pwrSupplyCfg | pwrCtrl | pwrThermal | pwrInput | pwrInputW | pwrFold
  | pwrStatus | pwrIrq | pwrCal | pwrTemp | pwrTempHub | pwrInputUj
  | pwrHbmTemp | pwrPart | pwrThrNow | pwrPhase | pwrLearnSel | pwrLearnData
  | pwrThr | secLifecycle | secCmd | secCmdStatus | secImgLen | secImgBase
  | secIrq | secLmsLeft | secNonce | nvsStatus | nvsCmd | nvsCmdStatus
  | nvsStageCtrl | nvsIrq | nvsRdAddr | nvsSeq | nvsWear | nvsFlogCount
  | fabCoord | fabTorus | fabRecalCfg | fabIrq | fabGpCtrl | fabGpStatus
  | fabGpPartner | fabGpTxFlits | fabGpRxFlits | fabGpFecCorr | fabGpFecUncorr | fabGpCrcErr
  | fabGpReplays | fabGpCreditWait | fabGpRecals | redCfg | redWait | redShep
  | redLayout | redStatus | redSeq | redLate | redNoiseCfg | redNoiseLocal
  | redNoiseGlobal | redNoiseLocalEma | redNoiseGlobalEma | redCollectives | redEscalations | redForced32
  | redPeerWaitNs | redMissing | redDivergence | redShadowMap | memMap | memXlatRoot
  | memXlatCtrl | memXlatInvAddr | memXlatInv | memStage | fltStatus | fltIrq
  | fltPartStatus | fltPartCtrl | fltPartIrq | fltLogSel | fltLogCount | fltScrubCfg
  | fltScrubStatus | fltCeLimit | fltCeTier1 | fltCeTier2 | fltCeDie | fltCeHub
  | fltPoisoned | fltScrubForcedSlots | fltTelDrops | fltLogLost | fltNvSkipped | telLoLimits
  | telLoPolicy | telLoStatus | telLoCtrl | telStatGroups | telLoPasses | telLoLetouts
  | telEnergyModule | telEnergyPart | telEnergyIdle | telEnergyQ | telPtag | dbgLevel
  | dbgCtrl | dbgTraceSel | dieOpStatus | dieBeatCount | dieDroopCfg | dieDroopCount
  | dieRingStatus | dieReqStatus | dieReqFullBeats | dieDrvStatus | dieDrvIndices | dieDrvRequests
  | coreMxStatus | coreMxPasses | coreMxRowBeats | coreMxFillWait | coreMxDepWait | coreStallTier1
  | coreStallTier2 | coreStallRemoteDie | coreStallIndex | coreStallGate | coreStallPeer | coreCtxSwitches
  | coreStReadBytes | coreStWriteBytes | coreStMerges | coreStStatus | coreVecElems | coreVecBusy
  | dbgCoreCtrl | dbgCoreStatus
  deriving DecidableEq, Repr

/-- One register: its name and up to two instance numbers (R550-R553). For a register of R545 the first number is the
function that makes the access. -/
structure Reg where
  name : RegName
  i : Nat := 0
  j : Nat := 0
  deriving DecidableEq, Repr

/-- Access codes of R1. No register of the module has the code RWS. -/
inductive Acc | rw | ro | wo | w1c
  deriving DecidableEq, Repr

/-- LIVE, STATIC, shadowed (R5-R7) or none of these. -/
inductive Kind | live | static | shadow | plain
  deriving DecidableEq, Repr

/-- One field of a register. -/
structure Field where
  lo : Nat
  w : Nat
  acc : Acc
  reset : Nat
  kind : Kind
  deriving DecidableEq, Repr

/-- Which function may make an access, by the rule of the register's chapter: `mgmt` the management owner, `part` the
owner of partition i (R227), `gate` and `tag` the owner of the partition that holds index i (R206, R139), `self` function
i, `abort` function i or the management owner (R474), `sec` the holder of the security commands (R520), `d1` a debug level
of at least D1 and `dbgCore` the debug rule of a core (R515, R522). -/
inductive Guard | any | mgmt | part | gate | self | abort | sec | d1 | dbgCore | tag
  deriving DecidableEq, Repr

/-- What makes the STATIC fields of a register busy (R6). -/
inductive Busy | never | tasks | train | queue | memMap | ports
  deriving DecidableEq, Repr

/-- One row of the register index. `idx` lists (count, stride) of each instance number; `perFn` marks R545. -/
structure RegSpec where
  base : Nat
  idx : List (Nat × Nat)
  width : Nat
  fields : List Field
  rg : Guard := .any
  wg : Guard := .any
  busy : Busy := .never
  perFn : Bool := false
  deriving DecidableEq, Repr

def fl (lo w : Nat) (acc : Acc) (reset : Nat) (kind : Kind) : Field := Field.mk lo w acc reset kind

def row (base : Nat) (idx : List (Nat × Nat)) (width : Nat) (rg wg : Guard) (busy : Busy) (perFn : Bool)
    (fields : List Field) : RegSpec := RegSpec.mk base idx width fields rg wg busy perFn

/-- The row of each register. -/
def RegName.spec : RegName → RegSpec
  | .genId => -- R549
    row 0x0 [] 32 .any .any .never false [fl 0 16 .ro 0x1f3c .plain, fl 16 16 .ro 0x3272 .plain]
  | .genVersion => -- R549
    row 0x4 [] 32 .any .any .never false [fl 0 8 .ro 1 .plain, fl 8 8 .ro 1 .plain, fl 16 8 .ro 1 .plain]
  | .cfgErr => -- R549
    row 0x8 [] 32 .any .any .never true [fl 0 1 .w1c 0 .plain, fl 1 1 .w1c 0 .plain, fl 2 1 .w1c 0 .plain, fl 3 1 .w1c 0 .plain, fl 4 3 .ro 0 .plain, fl 7 1 .w1c 0 .plain]
  | .cfgErrAddr => -- R549
    row 0xc [] 32 .any .any .never true [fl 0 26 .ro 0 .plain, fl 26 2 .ro 0 .plain, fl 31 1 .ro 0 .plain]
  | .genTopology => -- R43
    row 0x10 [] 32 .any .any .never false [fl 0 4 .ro 0xf .plain, fl 4 8 .ro 0x24 .plain, fl 12 4 .ro 4 .plain, fl 16 6 .ro 0x20 .plain, fl 22 5 .ro 0x10 .plain]
  | .genRefTime => -- R39
    row 0x20 [] 64 .any .any .never false [fl 0 64 .ro 0 .plain]
  | .genRefTimeLoad => -- R40
    row 0x28 [] 64 .any .mgmt .never false [fl 0 64 .wo 0 .plain]
  | .genStartup => -- R542
    row 0x30 [] 32 .any .any .never false [fl 0 4 .ro 1 .plain, fl 4 1 .ro 0 .plain]
  | .hostExec => -- R228
    row 0x100100 [(4, 0x10)] 32 .any .any .never false [fl 0 2 .rw 0 .shadow]
  | .hostCfgCommit => -- R228
    row 0x100104 [(4, 0x10)] 32 .any .any .never false [fl 0 1 .wo 0 .plain]
  | .hostCfgStaged => -- R228
    row 0x100108 [(4, 0x10)] 32 .any .any .never false [fl 0 2 .ro 0 .plain]
  | .hostJobSeed => -- R290
    row 0x100200 [(4, 0x8)] 64 .part .part .tasks false [fl 0 64 .rw 0 .static]
  | .hostTrainCfg => -- R333
    row 0x100400 [(4, 0x80)] 32 .part .part .train false [fl 0 5 .rw 0x10 .static, fl 8 16 .rw 0x7d0 .static]
  | .hostTrainIrq => -- R334
    row 0x100404 [(4, 0x80)] 32 .part .part .never false [fl 0 8 .rw 0 .live, fl 8 1 .rw 0 .live, fl 9 1 .rw 0 .live, fl 10 1 .rw 0 .live, fl 11 1 .rw 0 .live]
  | .hostTrainStep => -- R335
    row 0x100408 [(4, 0x80)] 64 .part .part .train false [fl 0 64 .rw 0 .static]
  | .hostTrainApplied => -- R335
    row 0x100410 [(4, 0x80)] 64 .part .part .train false [fl 0 64 .rw 0 .static]
  | .hostTrainBasteBase => -- R335
    row 0x100418 [(4, 0x80)] 64 .part .part .train false [fl 21 34 .rw 0 .shadow]
  | .hostTrainBasteSize => -- R336
    row 0x100420 [(4, 0x80)] 32 .part .part .train false [fl 0 6 .rw 0 .shadow]
  | .hostTrainWatch => -- R336
    row 0x100424 [(4, 0x80)] 32 .part .part .never false [fl 0 12 .rw 0 .live, fl 16 12 .rw 0 .live, fl 31 1 .rw 0 .live]
  | .hostTrainParam => -- R336
    row 0x100428 [(4, 0x80)] 32 .part .part .never false [fl 0 12 .rw 0 .live, fl 16 12 .rw 0 .live, fl 31 1 .rw 0 .live]
  | .hostTrainCtrl => -- R337
    row 0x10042c [(4, 0x80)] 32 .part .part .never false [fl 0 1 .wo 0 .plain, fl 1 1 .wo 0 .plain, fl 2 1 .wo 0 .plain, fl 3 1 .wo 0 .plain, fl 16 12 .wo 0 .plain]
  | .hostTrainRec => -- R337
    row 0x100430 [(4, 0x80)] 64 .part .part .never false [fl 6 50 .rw 0 .live]
  | .hostTrainStatus => -- R338
    row 0x100438 [(4, 0x80)] 32 .part .part .never false [fl 0 3 .ro 7 .plain, fl 3 1 .ro 0 .plain, fl 4 1 .w1c 0 .plain, fl 5 1 .ro 1 .plain, fl 16 16 .ro 0 .plain]
  | .hostQBase => -- R229
    row 0x101000 [(4, 0x1000), (64, 0x40)] 64 .part .part .queue false [fl 6 50 .rw 0 .static]
  | .hostQCplBase => -- R229
    row 0x101008 [(4, 0x1000), (64, 0x40)] 64 .part .part .queue false [fl 5 51 .rw 0 .static]
  | .hostQCtrl => -- R229
    row 0x101010 [(4, 0x1000), (64, 0x40)] 32 .part .part .queue false [fl 0 1 .rw 0 .static, fl 8 5 .rw 4 .static, fl 13 2 .rw 0 .shadow, fl 16 8 .rw 0 .live, fl 24 1 .wo 0 .plain, fl 25 1 .wo 0 .plain]
  | .hostQHead => -- R202
    row 0x101014 [(4, 0x1000), (64, 0x40)] 32 .part .part .never false [fl 0 32 .ro 0 .plain]
  | .hostQTail => -- R202
    row 0x101018 [(4, 0x1000), (64, 0x40)] 32 .part .part .never false [fl 0 32 .ro 0 .plain]
  | .hostQCplHead => -- R229
    row 0x10101c [(4, 0x1000), (64, 0x40)] 32 .part .part .never false [fl 0 32 .rw 0 .live]
  | .hostQCplTail => -- R210
    row 0x101020 [(4, 0x1000), (64, 0x40)] 32 .part .part .never false [fl 0 32 .ro 0 .plain]
  | .hostQStatus => -- R230
    row 0x101024 [(4, 0x1000), (64, 0x40)] 32 .part .part .never false [fl 0 1 .ro 0 .plain, fl 1 1 .w1c 0 .plain, fl 2 1 .ro 0 .plain, fl 3 1 .ro 0 .plain]
  | .hostQPasid => -- R475
    row 0x101028 [(4, 0x1000), (64, 0x40)] 32 .part .part .queue false [fl 0 20 .rw 0 .static, fl 31 1 .rw 0 .static]
  | .hostGate => -- R230
    row 0x108000 [(4096, 0x4)] 32 .gate .gate .never false [fl 0 32 .rw 0 .live]
  | .hostGateAdd => -- R208
    row 0x10c000 [(4096, 0x4)] 32 .gate .gate .never false [fl 0 32 .wo 0 .plain]
  | .hostPortStatus => -- R475
    row 0x112000 [(2, 0x4)] 32 .any .any .never false [fl 0 1 .ro 0 .plain, fl 1 3 .ro 0 .plain, fl 4 4 .ro 0 .plain, fl 8 1 .ro 0 .plain, fl 9 1 .ro 0 .plain]
  | .hostPartCfg => -- R475
    row 0x112010 [] 32 .any .mgmt .never false [fl 0 2 .rw 0 .shadow, fl 4 4 .rw 0 .shadow]
  | .hostPartCommit => -- R475
    row 0x112014 [] 32 .any .mgmt .never false [fl 0 1 .wo 0 .plain]
  | .hostPartStaged => -- R475
    row 0x112018 [] 32 .any .any .never false [fl 0 2 .ro 0 .plain, fl 4 4 .ro 0 .plain]
  | .hostMgmt => -- R475
    row 0x112020 [] 32 .any .any .never false [fl 0 1 .ro 0 .plain, fl 1 1 .ro 0 .plain, fl 2 2 .ro 0 .plain, fl 8 8 .rw 0 .live, fl 16 16 .rw 0 .live]
  | .hostMgmtCmd => -- R475
    row 0x112024 [] 32 .any .any .never false [fl 0 2 .wo 0 .plain]
  | .hostAbort => -- R475
    row 0x112040 [(2, 0x8)] 32 .any .abort .never false [fl 0 1 .wo 0 .plain, fl 8 8 .rw 0 .live]
  | .hostAbortStatus => -- R475
    row 0x112044 [(2, 0x8)] 32 .any .abort .never false [fl 0 1 .ro 0 .plain, fl 1 1 .w1c 0 .plain, fl 2 1 .ro 0 .plain]
  | .hostBar4Win => -- R475
    row 0x112060 [(2, 0x8)] 64 .any .self .never false [fl 36 16 .rw 0 .live]
  | .pwrState => -- R453
    row 0x200000 [] 32 .any .mgmt .never false [fl 0 3 .ro 0 .plain, fl 4 3 .ro 0 .plain, fl 8 3 .ro 0 .plain, fl 12 3 .ro 0 .plain, fl 16 3 .ro 0 .plain]
  | .pwrCmd => -- R453
    row 0x200004 [] 32 .any .mgmt .never false [fl 0 1 .wo 0 .plain, fl 1 1 .wo 0 .plain]
  | .pwrCapHost => -- R453
    row 0x200008 [] 32 .any .mgmt .never false [fl 0 11 .rw 0x5dc .live]
  | .pwrLimits => -- R453
    row 0x20000c [] 32 .any .mgmt .never false [fl 0 11 .ro 0x5dc .plain, fl 12 3 .ro 0 .plain, fl 16 11 .ro 0x5dc .plain]
  | .pwrShed => -- R453
    row 0x200010 [] 32 .any .mgmt .never false [fl 0 11 .rw 0x190 .live, fl 16 1 .ro 0 .plain]
  | .pwrSupplyCfg => -- R454
    row 0x200014 [] 32 .any .mgmt .never false [fl 0 10 .rw 0x294 .live, fl 10 10 .rw 0x2bc .live, fl 20 11 .rw 0x12c .live, fl 31 1 .rw 0 .live]
  | .pwrCtrl => -- R454
    row 0x200018 [] 32 .any .mgmt .never false [fl 0 6 .rw 0xa .live, fl 8 8 .rw 0x14 .live, fl 16 11 .rw 0x190 .live, fl 31 1 .wo 0 .plain]
  | .pwrThermal => -- R454
    row 0x20001c [] 32 .any .mgmt .never false [fl 0 7 .rw 0x64 .live, fl 8 7 .rw 0x5f .live]
  | .pwrInput => -- R455
    row 0x200020 [] 32 .any .mgmt .never false [fl 0 10 .ro 0 .plain, fl 10 12 .ro 0 .plain]
  | .pwrInputW => -- R455
    row 0x200024 [] 32 .any .mgmt .never false [fl 0 11 .ro 0 .plain, fl 16 11 .ro 0 .plain]
  | .pwrFold => -- R455
    row 0x200028 [] 32 .any .mgmt .never false [fl 0 11 .ro 0x6e .plain, fl 11 11 .ro 0x26c .plain, fl 22 7 .ro 0x40 .plain]
  | .pwrStatus => -- R455
    row 0x20002c [] 32 .any .mgmt .never false [fl 0 1 .ro 0 .plain, fl 1 1 .ro 0 .plain, fl 2 1 .w1c 0 .plain, fl 3 1 .w1c 0 .plain, fl 4 1 .w1c 0 .plain, fl 5 1 .w1c 0 .plain, fl 6 1 .w1c 0 .plain]
  | .pwrIrq => -- R455
    row 0x200030 [] 32 .any .mgmt .never false [fl 0 8 .rw 0 .live, fl 8 1 .rw 0 .live]
  | .pwrCal => -- R455
    row 0x200034 [] 32 .any .mgmt .never false [fl 0 32 .ro 0x3f800000 .plain]
  | .pwrTemp => -- R455
    row 0x200040 [(4, 0x4)] 32 .any .mgmt .never false [fl 0 12 .ro 0 .plain]
  | .pwrTempHub => -- R455
    row 0x200050 [] 32 .any .mgmt .never false [fl 0 12 .ro 0 .plain]
  | .pwrInputUj => -- R449
    row 0x200060 [] 64 .any .mgmt .never false [fl 0 64 .ro 0 .plain]
  | .pwrHbmTemp => -- R455
    row 0x200080 [(32, 0x4)] 32 .any .mgmt .never false [fl 0 12 .ro 0 .plain]
  | .pwrPart => -- R456
    row 0x200100 [(4, 0x4)] 32 .any .part .never false [fl 0 4 .rw 0xf .live, fl 4 1 .rw 1 .live, fl 8 8 .rw 0x14 .live, fl 16 4 .rw 8 .live, fl 20 1 .rw 0 .live]
  | .pwrThrNow => -- R456
    row 0x200110 [(4, 0x4)] 32 .any .mgmt .never false [fl 0 7 .ro 0 .plain]
  | .pwrPhase => -- R456
    row 0x200200 [(4, 0x40), (16, 0x4)] 32 .any .part .never false [fl 0 4 .rw 6 .live, fl 4 1 .rw 1 .live]
  | .pwrLearnSel => -- R456
    row 0x200300 [] 32 .any .mgmt .never false [fl 0 2 .rw 0 .live, fl 4 4 .rw 0 .live, fl 8 4 .rw 0 .live]
  | .pwrLearnData => -- R456
    row 0x200304 [] 32 .any .mgmt .never false [fl 0 12 .ro 0 .plain, fl 12 11 .ro 0 .plain, fl 30 1 .ro 0 .plain, fl 31 1 .ro 0 .plain]
  | .pwrThr => -- R448
    row 0x200400 [(4, 0x40), (7, 0x8)] 64 .any .mgmt .never false [fl 0 64 .ro 0 .plain]
  | .secLifecycle => -- R521
    row 0x300000 [] 32 .any .sec .never false [fl 0 2 .ro 0 .plain, fl 2 1 .ro 0 .plain, fl 8 7 .ro 0 .plain, fl 16 7 .ro 0 .plain]
  | .secCmd => -- R521
    row 0x300004 [] 32 .any .sec .never false [fl 0 4 .wo 0 .plain]
  | .secCmdStatus => -- R521
    row 0x300008 [] 32 .any .sec .never false [fl 0 1 .ro 0 .plain, fl 1 1 .w1c 0 .plain, fl 4 3 .ro 0 .plain, fl 8 4 .ro 0 .plain]
  | .secImgLen => -- R521
    row 0x30000c [] 32 .any .sec .never false [fl 0 23 .rw 0 .live]
  | .secImgBase => -- R521
    row 0x300010 [] 32 .any .sec .never false [fl 16 6 .rw 0 .live]
  | .secIrq => -- R521
    row 0x300014 [] 32 .any .sec .never false [fl 0 8 .rw 0 .live, fl 8 1 .rw 0 .live, fl 16 1 .w1c 0 .plain, fl 17 1 .w1c 0 .plain]
  | .secLmsLeft => -- R508
    row 0x300018 [] 64 .any .sec .never false [fl 0 64 .ro 0 .plain]
  | .secNonce => -- R513
    row 0x300020 [] 64 .any .sec .never false [fl 0 64 .ro 0 .plain]
  | .nvsStatus => -- R542
    row 0x400000 [] 32 .any .any .never false [fl 0 13 .ro 0 .plain, fl 16 1 .w1c 0 .plain, fl 17 1 .w1c 0 .plain, fl 18 1 .w1c 0 .plain]
  | .nvsCmd => -- R542
    row 0x400004 [] 32 .any .mgmt .never false [fl 0 1 .wo 0 .plain]
  | .nvsCmdStatus => -- R542
    row 0x400008 [] 32 .any .any .never false [fl 0 1 .ro 0 .plain, fl 1 1 .w1c 0 .plain, fl 4 3 .ro 0 .plain, fl 8 7 .ro 0 .plain]
  | .nvsStageCtrl => -- R542
    row 0x40000c [] 32 .any .mgmt .never false [fl 0 7 .rw 0 .live, fl 8 1 .rw 0 .live]
  | .nvsIrq => -- R542
    row 0x400010 [] 32 .any .mgmt .never false [fl 0 8 .rw 0 .live, fl 8 1 .rw 0 .live]
  | .nvsRdAddr => -- R542
    row 0x400014 [] 32 .any .any .never true [fl 8 15 .rw 0 .live]
  | .nvsSeq => -- R542
    row 0x400018 [] 32 .any .any .never false [fl 0 32 .ro 0 .plain]
  | .nvsWear => -- R542
    row 0x40001c [] 32 .any .any .never false [fl 0 8 .ro 0 .plain, fl 8 8 .ro 0 .plain, fl 16 8 .ro 0 .plain, fl 24 8 .ro 0 .plain]
  | .nvsFlogCount => -- R540
    row 0x400020 [] 64 .any .any .never false [fl 0 64 .ro 0 .plain]
  | .fabCoord => -- R371
    row 0x500000 [] 32 .any .mgmt .ports false [fl 0 4 .rw 0 .static, fl 4 4 .rw 0 .static, fl 8 4 .rw 0 .static]
  | .fabTorus => -- R371
    row 0x500004 [] 32 .any .mgmt .ports false [fl 0 4 .rw 0 .static, fl 4 4 .rw 0 .static, fl 8 4 .rw 0 .static, fl 12 2 .rw 0 .static]
  | .fabRecalCfg => -- R372
    row 0x500008 [] 32 .any .mgmt .never false [fl 0 14 .rw 0x3e8 .live]
  | .fabIrq => -- R372
    row 0x50000c [] 32 .any .mgmt .never false [fl 0 8 .rw 0 .live, fl 8 1 .rw 0 .live]
  | .fabGpCtrl => -- R373
    row 0x501000 [(6, 0x100)] 32 .any .mgmt .never false [fl 0 1 .wo 0 .plain, fl 1 1 .wo 0 .plain, fl 2 1 .wo 0 .plain]
  | .fabGpStatus => -- R374
    row 0x501004 [(6, 0x100)] 32 .any .mgmt .never false [fl 0 3 .ro 0 .plain, fl 3 1 .ro 0 .plain, fl 4 8 .ro 0 .plain, fl 12 3 .ro 0 .plain, fl 15 1 .ro 0 .plain, fl 16 1 .w1c 0 .plain, fl 17 1 .w1c 0 .plain]
  | .fabGpPartner => -- R375
    row 0x501008 [(6, 0x100)] 32 .any .mgmt .never false [fl 0 4 .ro 0 .plain, fl 4 4 .ro 0 .plain, fl 8 4 .ro 0 .plain, fl 12 3 .ro 0 .plain, fl 15 1 .ro 0 .plain]
  | .fabGpTxFlits => -- R376
    row 0x501010 [(6, 0x100)] 64 .any .mgmt .never false [fl 0 64 .ro 0 .plain]
  | .fabGpRxFlits => -- R376
    row 0x501018 [(6, 0x100)] 64 .any .mgmt .never false [fl 0 64 .ro 0 .plain]
  | .fabGpFecCorr => -- R376
    row 0x501020 [(6, 0x100)] 64 .any .mgmt .never false [fl 0 64 .ro 0 .plain]
  | .fabGpFecUncorr => -- R376
    row 0x501028 [(6, 0x100)] 64 .any .mgmt .never false [fl 0 64 .ro 0 .plain]
  | .fabGpCrcErr => -- R376
    row 0x501030 [(6, 0x100)] 64 .any .mgmt .never false [fl 0 64 .ro 0 .plain]
  | .fabGpReplays => -- R376
    row 0x501038 [(6, 0x100)] 64 .any .mgmt .never false [fl 0 64 .ro 0 .plain]
  | .fabGpCreditWait => -- R376
    row 0x501040 [(6, 0x100)] 64 .any .mgmt .never false [fl 0 64 .ro 0 .plain]
  | .fabGpRecals => -- R376
    row 0x501048 [(6, 0x100)] 64 .any .mgmt .never false [fl 0 64 .ro 0 .plain]
  | .redCfg => -- R416
    row 0x600000 [(4, 0x100)] 32 .part .part .train false [fl 0 4 .rw 4 .static, fl 4 1 .rw 0 .static, fl 5 1 .rw 0 .static]
  | .redWait => -- R416
    row 0x600004 [(4, 0x100)] 32 .part .part .train false [fl 0 12 .rw 0xc8 .static, fl 16 12 .rw 0x32 .static]
  | .redShep => -- R417
    row 0x600008 [(4, 0x100)] 32 .part .part .never false [fl 0 4 .rw 0 .shadow, fl 8 8 .rw 0 .shadow]
  | .redLayout => -- R417
    row 0x60000c [(4, 0x100)] 32 .part .part .never false [fl 0 1 .wo 0 .plain, fl 1 1 .wo 0 .plain, fl 8 1 .ro 0 .plain, fl 16 8 .ro 0 .plain]
  | .redStatus => -- R418
    row 0x600010 [(4, 0x100)] 32 .part .part .never false [fl 0 9 .ro 0 .plain, fl 9 1 .ro 0 .plain, fl 10 1 .ro 0 .plain, fl 11 1 .w1c 0 .plain, fl 12 1 .w1c 0 .plain, fl 13 1 .w1c 0 .plain, fl 14 1 .ro 0 .plain]
  | .redSeq => -- R418
    row 0x600014 [(4, 0x100)] 32 .part .part .never false [fl 0 32 .ro 0 .plain]
  | .redLate => -- R418
    row 0x600018 [(4, 0x100)] 32 .part .part .never false [fl 0 12 .ro 0 .plain, fl 15 1 .ro 0 .plain]
  | .redNoiseCfg => -- R418
    row 0x60001c [(4, 0x100)] 32 .part .part .never false [fl 0 8 .rw 0x10 .live, fl 8 1 .wo 0 .plain]
  | .redNoiseLocal => -- R418
    row 0x600020 [(4, 0x100)] 32 .part .part .never false [fl 0 32 .ro 0 .plain]
  | .redNoiseGlobal => -- R418
    row 0x600024 [(4, 0x100)] 32 .part .part .never false [fl 0 32 .ro 0 .plain]
  | .redNoiseLocalEma => -- R418
    row 0x600028 [(4, 0x100)] 32 .part .part .never false [fl 0 32 .ro 0 .plain]
  | .redNoiseGlobalEma => -- R418
    row 0x60002c [(4, 0x100)] 32 .part .part .never false [fl 0 32 .ro 0 .plain]
  | .redCollectives => -- R420
    row 0x600040 [(4, 0x100)] 64 .part .part .never false [fl 0 64 .ro 0 .plain]
  | .redEscalations => -- R420
    row 0x600048 [(4, 0x100)] 64 .part .part .never false [fl 0 64 .ro 0 .plain]
  | .redForced32 => -- R420
    row 0x600050 [(4, 0x100)] 64 .part .part .never false [fl 0 64 .ro 0 .plain]
  | .redPeerWaitNs => -- R420
    row 0x600058 [(4, 0x100)] 64 .part .part .never false [fl 0 64 .ro 0 .plain]
  | .redMissing => -- R420
    row 0x600060 [(4, 0x100)] 64 .part .part .never false [fl 0 64 .ro 0 .plain]
  | .redDivergence => -- R420
    row 0x600068 [(4, 0x100)] 64 .part .part .never false [fl 0 64 .ro 0 .plain]
  | .redShadowMap => -- R419
    row 0x600800 [(4, 0x40), (16, 0x4)] 32 .part .part .train false [fl 0 12 .rw 0 .static, fl 16 12 .rw 0 .static, fl 31 1 .rw 0 .static]
  | .memMap => -- R24
    row 0x700000 [(4, 0x4)] 32 .any .any .memMap false [fl 0 1 .rw 0 .static, fl 1 1 .rw 0 .static]
  | .memXlatRoot => -- R191
    row 0x700100 [(4, 0x20)] 64 .any .any .tasks false [fl 15 37 .rw 0 .static]
  | .memXlatCtrl => -- R191
    row 0x700108 [(4, 0x20)] 32 .any .any .tasks false [fl 0 1 .rw 0 .static, fl 1 1 .rw 0 .static, fl 2 1 .rw 0 .static]
  | .memXlatInvAddr => -- R192
    row 0x700110 [(4, 0x20)] 64 .any .any .never false [fl 16 40 .rw 0 .live]
  | .memXlatInv => -- R192
    row 0x700118 [(4, 0x20)] 32 .any .any .never false [fl 0 1 .wo 0 .plain, fl 1 1 .rw 0 .live, fl 2 6 .rw 0x10 .live, fl 31 1 .ro 1 .plain]
  | .memStage => -- R193
    row 0x700180 [(4, 0x4)] 32 .any .any .tasks false [fl 0 2 .rw 2 .static]
  | .fltStatus => -- R495
    row 0x800000 [] 32 .any .mgmt .never false [fl 0 1 .w1c 0 .plain, fl 1 1 .w1c 0 .plain, fl 2 1 .w1c 0 .plain, fl 3 1 .w1c 0 .plain, fl 4 1 .w1c 0 .plain]
  | .fltIrq => -- R495
    row 0x800004 [] 32 .any .mgmt .never false [fl 0 8 .rw 0 .live, fl 8 1 .rw 0 .live]
  | .fltPartStatus => -- R495
    row 0x800010 [(4, 0x4)] 32 .any .part .never false [fl 0 1 .ro 0 .plain, fl 1 1 .ro 0 .plain, fl 2 1 .w1c 0 .plain, fl 16 16 .ro 0 .plain]
  | .fltPartCtrl => -- R495
    row 0x800020 [(4, 0x4)] 32 .any .part .never false [fl 0 1 .wo 0 .plain, fl 1 1 .wo 0 .plain]
  | .fltPartIrq => -- R495
    row 0x800030 [(4, 0x4)] 32 .any .part .never false [fl 0 8 .rw 0 .live, fl 8 1 .rw 1 .live]
  | .fltLogSel => -- R495
    row 0x800040 [] 32 .any .any .never true [fl 0 32 .rw 0 .live]
  | .fltLogCount => -- R495
    row 0x800044 [] 32 .any .mgmt .never false [fl 0 32 .ro 0 .plain]
  | .fltScrubCfg => -- R495
    row 0x800060 [] 32 .any .mgmt .never false [fl 0 8 .rw 0x18 .live, fl 8 1 .rw 1 .live]
  | .fltScrubStatus => -- R495
    row 0x800064 [] 32 .any .mgmt .never false [fl 0 1 .ro 0 .plain, fl 1 1 .ro 0 .plain, fl 8 7 .ro 0 .plain]
  | .fltCeLimit => -- R495
    row 0x800068 [] 32 .any .mgmt .never false [fl 0 16 .rw 0x3e8 .live]
  | .fltCeTier1 => -- R496
    row 0x800200 [(32, 0x8)] 64 .any .mgmt .never false [fl 0 64 .ro 0 .plain]
  | .fltCeTier2 => -- R496
    row 0x800300 [(16, 0x8)] 64 .any .mgmt .never false [fl 0 64 .ro 0 .plain]
  | .fltCeDie => -- R496
    row 0x800380 [(4, 0x8)] 64 .any .mgmt .never false [fl 0 64 .ro 0 .plain]
  | .fltCeHub => -- R496
    row 0x8003a0 [] 64 .any .mgmt .never false [fl 0 64 .ro 0 .plain]
  | .fltPoisoned => -- R496
    row 0x8003a8 [] 64 .any .mgmt .never false [fl 0 64 .ro 0 .plain]
  | .fltScrubForcedSlots => -- R496
    row 0x8003b0 [] 64 .any .mgmt .never false [fl 0 64 .ro 0 .plain]
  | .fltTelDrops => -- R496
    row 0x8003b8 [] 64 .any .mgmt .never false [fl 0 64 .ro 0 .plain]
  | .fltLogLost => -- R496
    row 0x8003c0 [] 64 .any .mgmt .never false [fl 0 64 .ro 0 .plain]
  | .fltNvSkipped => -- R496
    row 0x8003c8 [] 64 .any .mgmt .never false [fl 0 64 .ro 0 .plain]
  | .telLoLimits => -- R145
    row 0x900100 [(4, 0x10)] 32 .any .any .tasks false [fl 0 11 .rw 4 .static, fl 16 11 .rw 0x20 .static]
  | .telLoPolicy => -- R146
    row 0x900104 [(4, 0x10)] 32 .any .any .tasks false [fl 0 8 .rw 0x10 .static, fl 8 11 .rw 0x100 .static, fl 20 1 .rw 0 .static]
  | .telLoStatus => -- R147
    row 0x900108 [(4, 0x10)] 32 .any .any .never false [fl 0 1 .w1c 0 .plain, fl 1 1 .ro 0 .plain, fl 2 1 .ro 0 .plain, fl 4 11 .ro 0 .plain]
  | .telLoCtrl => -- R147
    row 0x90010c [(4, 0x10)] 32 .any .any .never false [fl 0 1 .wo 0 .plain]
  | .telStatGroups => -- R147
    row 0x900140 [(4, 0x4)] 32 .any .any .never false [fl 0 32 .rw 0 .live]
  | .telLoPasses => -- R144
    row 0x900200 [(4, 0x10)] 64 .any .any .never false [fl 0 64 .ro 0 .plain]
  | .telLoLetouts => -- R144
    row 0x900208 [(4, 0x10)] 64 .any .any .never false [fl 0 64 .ro 0 .plain]
  | .telEnergyModule => -- R450
    row 0x910000 [] 64 .any .mgmt .never false [fl 0 64 .ro 0 .plain]
  | .telEnergyPart => -- R450
    row 0x910010 [(4, 0x8)] 64 .any .mgmt .never false [fl 0 64 .ro 0 .plain]
  | .telEnergyIdle => -- R450
    row 0x910030 [(4, 0x8)] 64 .any .mgmt .never false [fl 0 64 .ro 0 .plain]
  | .telEnergyQ => -- R450
    row 0x911000 [(4, 0x200), (64, 0x8)] 64 .any .mgmt .never false [fl 0 64 .ro 0 .plain]
  | .telPtag => -- R339
    row 0x980000 [(4096, 0x8)] 64 .tag .tag .never false [fl 0 48 .ro 0 .plain, fl 48 16 .ro 0 .plain]
  | .dbgLevel => -- R522
    row 0xa00000 [] 32 .any .any .never false [fl 0 2 .ro 0 .plain, fl 4 2 .ro 0 .plain, fl 8 4 .ro 0 .plain, fl 16 16 .ro 0 .plain]
  | .dbgCtrl => -- R522
    row 0xa00004 [] 32 .any .mgmt .never false [fl 0 1 .wo 0 .plain, fl 1 1 .wo 0 .plain]
  | .dbgTraceSel => -- R522
    row 0xa00010 [] 32 .d1 .d1 .never true [fl 0 32 .rw 0 .live]
  | .dieOpStatus => -- R44
    row 0x1000000 [(4, 0x400000)] 32 .any .any .never false [fl 0 4 .ro 0 .plain, fl 4 4 .ro 0 .plain, fl 8 1 .ro 0 .plain]
  | .dieBeatCount => -- R31
    row 0x1000008 [(4, 0x400000)] 64 .any .any .never false [fl 0 64 .ro 0 .plain]
  | .dieDroopCfg => -- R45
    row 0x1000010 [(4, 0x400000)] 32 .any .any .never false [fl 0 6 .rw 0x1e .live]
  | .dieDroopCount => -- R35
    row 0x1000018 [(4, 0x400000)] 64 .any .any .never false [fl 0 64 .ro 0 .plain]
  | .dieRingStatus => -- R46
    row 0x1000020 [(4, 0x400000)] 32 .any .any .never false [fl 0 1 .ro 0 .plain, fl 1 1 .ro 0 .plain, fl 2 1 .ro 0 .plain]
  | .dieReqStatus => -- R194
    row 0x1000100 [(4, 0x400000)] 32 .any .any .never false [fl 0 15 .ro 0 .plain, fl 16 13 .ro 0 .plain]
  | .dieReqFullBeats => -- R196
    row 0x1000108 [(4, 0x400000)] 64 .any .any .never false [fl 0 64 .ro 0 .plain]
  | .dieDrvStatus => -- R291
    row 0x1000200 [(4, 0x400000)] 32 .any .any .never false [fl 0 6 .ro 0 .plain, fl 6 1 .ro 0 .plain]
  | .dieDrvIndices => -- R292
    row 0x1000208 [(4, 0x400000)] 64 .any .any .never false [fl 0 64 .ro 0 .plain]
  | .dieDrvRequests => -- R292
    row 0x1000210 [(4, 0x400000)] 64 .any .any .never false [fl 0 64 .ro 0 .plain]
  | .coreMxStatus => -- R111
    row 0x1100200 [(4, 0x400000), (36, 0x4000)] 32 .any .any .never false [fl 0 1 .ro 0 .plain, fl 1 1 .ro 0 .plain, fl 2 1 .ro 0 .plain, fl 3 1 .ro 0 .plain, fl 4 1 .ro 0 .plain]
  | .coreMxPasses => -- R112
    row 0x1100208 [(4, 0x400000), (36, 0x4000)] 64 .any .any .never false [fl 0 64 .ro 0 .plain]
  | .coreMxRowBeats => -- R112
    row 0x1100210 [(4, 0x400000), (36, 0x4000)] 64 .any .any .never false [fl 0 64 .ro 0 .plain]
  | .coreMxFillWait => -- R112
    row 0x1100218 [(4, 0x400000), (36, 0x4000)] 64 .any .any .never false [fl 0 64 .ro 0 .plain]
  | .coreMxDepWait => -- R112
    row 0x1100220 [(4, 0x400000), (36, 0x4000)] 64 .any .any .never false [fl 0 64 .ro 0 .plain]
  | .coreStallTier1 => -- R196
    row 0x1100300 [(4, 0x400000), (36, 0x4000)] 64 .any .any .never false [fl 0 64 .ro 0 .plain]
  | .coreStallTier2 => -- R196
    row 0x1100308 [(4, 0x400000), (36, 0x4000)] 64 .any .any .never false [fl 0 64 .ro 0 .plain]
  | .coreStallRemoteDie => -- R196
    row 0x1100310 [(4, 0x400000), (36, 0x4000)] 64 .any .any .never false [fl 0 64 .ro 0 .plain]
  | .coreStallIndex => -- R196
    row 0x1100318 [(4, 0x400000), (36, 0x4000)] 64 .any .any .never false [fl 0 64 .ro 0 .plain]
  | .coreStallGate => -- R196
    row 0x1100320 [(4, 0x400000), (36, 0x4000)] 64 .any .any .never false [fl 0 64 .ro 0 .plain]
  | .coreStallPeer => -- R196
    row 0x1100328 [(4, 0x400000), (36, 0x4000)] 64 .any .any .never false [fl 0 64 .ro 0 .plain]
  | .coreCtxSwitches => -- R196
    row 0x1100330 [(4, 0x400000), (36, 0x4000)] 64 .any .any .never false [fl 0 64 .ro 0 .plain]
  | .coreStReadBytes => -- R196
    row 0x1100338 [(4, 0x400000), (36, 0x4000)] 64 .any .any .never false [fl 0 64 .ro 0 .plain]
  | .coreStWriteBytes => -- R196
    row 0x1100340 [(4, 0x400000), (36, 0x4000)] 64 .any .any .never false [fl 0 64 .ro 0 .plain]
  | .coreStMerges => -- R196
    row 0x1100348 [(4, 0x400000), (36, 0x4000)] 64 .any .any .never false [fl 0 64 .ro 0 .plain]
  | .coreStStatus => -- R195
    row 0x1100350 [(4, 0x400000), (36, 0x4000)] 32 .any .any .never false [fl 0 16 .ro 0 .plain, fl 16 2 .ro 0 .plain, fl 18 1 .ro 0 .plain]
  | .coreVecElems => -- R292
    row 0x1100400 [(4, 0x400000), (36, 0x4000)] 64 .any .any .never false [fl 0 64 .ro 0 .plain]
  | .coreVecBusy => -- R292
    row 0x1100408 [(4, 0x400000), (36, 0x4000)] 64 .any .any .never false [fl 0 64 .ro 0 .plain]
  | .dbgCoreCtrl => -- R522
    row 0x1100500 [(4, 0x400000), (36, 0x4000)] 32 .dbgCore .dbgCore .never false [fl 0 1 .wo 0 .plain, fl 1 1 .wo 0 .plain, fl 2 1 .wo 0 .plain]
  | .dbgCoreStatus => -- R522
    row 0x1100504 [(4, 0x400000), (36, 0x4000)] 32 .d1 .d1 .never false [fl 0 1 .ro 0 .plain, fl 1 1 .ro 0 .plain, fl 2 2 .ro 0 .plain, fl 16 16 .ro 0 .plain]

/-- Every register name, in the order of the index. -/
def RegName.all : List RegName :=
  List.flatten [
    [.genId, .genVersion, .cfgErr, .cfgErrAddr, .genTopology, .genRefTime, .genRefTimeLoad, .genStartup],
    [.hostExec, .hostCfgCommit, .hostCfgStaged, .hostJobSeed, .hostTrainCfg, .hostTrainIrq, .hostTrainStep, .hostTrainApplied],
    [.hostTrainBasteBase, .hostTrainBasteSize, .hostTrainWatch, .hostTrainParam, .hostTrainCtrl, .hostTrainRec, .hostTrainStatus, .hostQBase],
    [.hostQCplBase, .hostQCtrl, .hostQHead, .hostQTail, .hostQCplHead, .hostQCplTail, .hostQStatus, .hostQPasid],
    [.hostGate, .hostGateAdd, .hostPortStatus, .hostPartCfg, .hostPartCommit, .hostPartStaged, .hostMgmt, .hostMgmtCmd],
    [.hostAbort, .hostAbortStatus, .hostBar4Win, .pwrState, .pwrCmd, .pwrCapHost, .pwrLimits, .pwrShed],
    [.pwrSupplyCfg, .pwrCtrl, .pwrThermal, .pwrInput, .pwrInputW, .pwrFold, .pwrStatus, .pwrIrq],
    [.pwrCal, .pwrTemp, .pwrTempHub, .pwrInputUj, .pwrHbmTemp, .pwrPart, .pwrThrNow, .pwrPhase],
    [.pwrLearnSel, .pwrLearnData, .pwrThr, .secLifecycle, .secCmd, .secCmdStatus, .secImgLen, .secImgBase],
    [.secIrq, .secLmsLeft, .secNonce, .nvsStatus, .nvsCmd, .nvsCmdStatus, .nvsStageCtrl, .nvsIrq],
    [.nvsRdAddr, .nvsSeq, .nvsWear, .nvsFlogCount, .fabCoord, .fabTorus, .fabRecalCfg, .fabIrq],
    [.fabGpCtrl, .fabGpStatus, .fabGpPartner, .fabGpTxFlits, .fabGpRxFlits, .fabGpFecCorr, .fabGpFecUncorr, .fabGpCrcErr],
    [.fabGpReplays, .fabGpCreditWait, .fabGpRecals, .redCfg, .redWait, .redShep, .redLayout, .redStatus],
    [.redSeq, .redLate, .redNoiseCfg, .redNoiseLocal, .redNoiseGlobal, .redNoiseLocalEma, .redNoiseGlobalEma, .redCollectives],
    [.redEscalations, .redForced32, .redPeerWaitNs, .redMissing, .redDivergence, .redShadowMap, .memMap, .memXlatRoot],
    [.memXlatCtrl, .memXlatInvAddr, .memXlatInv, .memStage, .fltStatus, .fltIrq, .fltPartStatus, .fltPartCtrl],
    [.fltPartIrq, .fltLogSel, .fltLogCount, .fltScrubCfg, .fltScrubStatus, .fltCeLimit, .fltCeTier1, .fltCeTier2],
    [.fltCeDie, .fltCeHub, .fltPoisoned, .fltScrubForcedSlots, .fltTelDrops, .fltLogLost, .fltNvSkipped, .telLoLimits],
    [.telLoPolicy, .telLoStatus, .telLoCtrl, .telStatGroups, .telLoPasses, .telLoLetouts, .telEnergyModule, .telEnergyPart],
    [.telEnergyIdle, .telEnergyQ, .telPtag, .dbgLevel, .dbgCtrl, .dbgTraceSel, .dieOpStatus, .dieBeatCount],
    [.dieDroopCfg, .dieDroopCount, .dieRingStatus, .dieReqStatus, .dieReqFullBeats, .dieDrvStatus, .dieDrvIndices, .dieDrvRequests],
    [.coreMxStatus, .coreMxPasses, .coreMxRowBeats, .coreMxFillWait, .coreMxDepWait, .coreStallTier1, .coreStallTier2, .coreStallRemoteDie],
    [.coreStallIndex, .coreStallGate, .coreStallPeer, .coreCtxSwitches, .coreStReadBytes, .coreStWriteBytes, .coreStMerges, .coreStStatus],
    [.coreVecElems, .coreVecBusy, .dbgCoreCtrl, .dbgCoreStatus]]

/-- The bits of a register that belong to a named field; every other bit is reserved and reads 0 (R3). -/
def fieldsMask (fs : List Field) : Nat := fs.foldl (fun m f => m ||| ((2 ^ f.w - 1) <<< f.lo)) 0
def RegName.mask (r : RegName) : DWord := BitVec.ofNat 64 (fieldsMask r.spec.fields)
/-- The bits that a register holds: a write-only field reads 0 (R1). -/
def RegName.held (r : RegName) : DWord := BitVec.ofNat 64 (fieldsMask (r.spec.fields.filter fun f => f.acc != .wo))

/-- The reset value of a register: its fields at the reset values of their tables. -/
def RegName.reset (r : RegName) : DWord :=
  BitVec.ofNat 64 (r.spec.fields.foldl (fun m f => m ||| (f.reset <<< f.lo)) 0)

/-- A named field of a register. -/
structure Fld where
  reg : RegName
  lo : Nat
  w : Nat
  deriving DecidableEq, Repr

namespace F
def genIdVendor : Fld := ⟨.genId, 0, 16⟩
def genIdDevice : Fld := ⟨.genId, 16, 16⟩
def genVersionRevision : Fld := ⟨.genVersion, 0, 8⟩
def genVersionFamily : Fld := ⟨.genVersion, 8, 8⟩
def genVersionHololo : Fld := ⟨.genVersion, 16, 8⟩
def cfgErrReserved : Fld := ⟨.cfgErr, 0, 1⟩
def cfgErrAccess : Fld := ⟨.cfgErr, 1, 1⟩
def cfgErrBusy : Fld := ⟨.cfgErr, 2, 1⟩
def cfgErrMismatch : Fld := ⟨.cfgErr, 3, 1⟩
def cfgErrFirst : Fld := ⟨.cfgErr, 4, 3⟩
def cfgErrOverrun : Fld := ⟨.cfgErr, 7, 1⟩
def cfgErrAddrOffset : Fld := ⟨.cfgErrAddr, 0, 26⟩
def cfgErrAddrBar : Fld := ⟨.cfgErrAddr, 26, 2⟩
def cfgErrAddrWrite : Fld := ⟨.cfgErrAddr, 31, 1⟩
def genTopologyDies : Fld := ⟨.genTopology, 0, 4⟩
def genTopologyCoresPerDie : Fld := ⟨.genTopology, 4, 8⟩
def genTopologyArraysPerCore : Fld := ⟨.genTopology, 12, 4⟩
def genTopologyHbmStacks : Fld := ⟨.genTopology, 16, 6⟩
def genTopologyLpChannels : Fld := ⟨.genTopology, 22, 5⟩
def genRefTimeTime : Fld := ⟨.genRefTime, 0, 64⟩
def genRefTimeLoadLoad : Fld := ⟨.genRefTimeLoad, 0, 64⟩
def genStartupStage : Fld := ⟨.genStartup, 0, 4⟩
def genStartupTiersReady : Fld := ⟨.genStartup, 4, 1⟩
def hostExecCtxCount : Fld := ⟨.hostExec, 0, 2⟩
def hostCfgCommitCommit : Fld := ⟨.hostCfgCommit, 0, 1⟩
def hostCfgStagedCtxCount : Fld := ⟨.hostCfgStaged, 0, 2⟩
def hostJobSeedSeed : Fld := ⟨.hostJobSeed, 0, 64⟩
def hostTrainCfgGradScaleLog2 : Fld := ⟨.hostTrainCfg, 0, 5⟩
def hostTrainCfgGradScaleGrowthSteps : Fld := ⟨.hostTrainCfg, 8, 16⟩
def hostTrainIrqVector : Fld := ⟨.hostTrainIrq, 0, 8⟩
def hostTrainIrqOnBoundary : Fld := ⟨.hostTrainIrq, 8, 1⟩
def hostTrainIrqOnNoncommit : Fld := ⟨.hostTrainIrq, 9, 1⟩
def hostTrainIrqOnSkew : Fld := ⟨.hostTrainIrq, 10, 1⟩
def hostTrainIrqOnStorm : Fld := ⟨.hostTrainIrq, 11, 1⟩
def hostTrainStepStep : Fld := ⟨.hostTrainStep, 0, 64⟩
def hostTrainAppliedApplied : Fld := ⟨.hostTrainApplied, 0, 64⟩
def hostTrainBasteBaseBase : Fld := ⟨.hostTrainBasteBase, 21, 34⟩
def hostTrainBasteSizeSizeLog2 : Fld := ⟨.hostTrainBasteSize, 0, 6⟩
def hostTrainWatchFirst : Fld := ⟨.hostTrainWatch, 0, 12⟩
def hostTrainWatchLast : Fld := ⟨.hostTrainWatch, 16, 12⟩
def hostTrainWatchEn : Fld := ⟨.hostTrainWatch, 31, 1⟩
def hostTrainParamFirst : Fld := ⟨.hostTrainParam, 0, 12⟩
def hostTrainParamLast : Fld := ⟨.hostTrainParam, 16, 12⟩
def hostTrainParamEn : Fld := ⟨.hostTrainParam, 31, 1⟩
def hostTrainCtrlPublish : Fld := ⟨.hostTrainCtrl, 0, 1⟩
def hostTrainCtrlCommitBaste : Fld := ⟨.hostTrainCtrl, 1, 1⟩
def hostTrainCtrlTouchAll : Fld := ⟨.hostTrainCtrl, 2, 1⟩
def hostTrainCtrlTouch : Fld := ⟨.hostTrainCtrl, 3, 1⟩
def hostTrainCtrlTouchId : Fld := ⟨.hostTrainCtrl, 16, 12⟩
def hostTrainRecAddr : Fld := ⟨.hostTrainRec, 6, 50⟩
def hostTrainStatusLastVerdict : Fld := ⟨.hostTrainStatus, 0, 3⟩
def hostTrainStatusNonfinite : Fld := ⟨.hostTrainStatus, 3, 1⟩
def hostTrainStatusSkew : Fld := ⟨.hostTrainStatus, 4, 1⟩
def hostTrainStatusFresh : Fld := ⟨.hostTrainStatus, 5, 1⟩
def hostTrainStatusCleanCount : Fld := ⟨.hostTrainStatus, 16, 16⟩
def hostQBaseAddr : Fld := ⟨.hostQBase, 6, 50⟩
def hostQCplBaseAddr : Fld := ⟨.hostQCplBase, 5, 51⟩
def hostQCtrlEn : Fld := ⟨.hostQCtrl, 0, 1⟩
def hostQCtrlSizeLog2 : Fld := ⟨.hostQCtrl, 8, 5⟩
def hostQCtrlCtx : Fld := ⟨.hostQCtrl, 13, 2⟩
def hostQCtrlVector : Fld := ⟨.hostQCtrl, 16, 8⟩
def hostQCtrlResume : Fld := ⟨.hostQCtrl, 24, 1⟩
def hostQCtrlSkip : Fld := ⟨.hostQCtrl, 25, 1⟩
def hostQHeadHead : Fld := ⟨.hostQHead, 0, 32⟩
def hostQTailTail : Fld := ⟨.hostQTail, 0, 32⟩
def hostQCplHeadCplHead : Fld := ⟨.hostQCplHead, 0, 32⟩
def hostQCplTailCplTail : Fld := ⟨.hostQCplTail, 0, 32⟩
def hostQStatusHeld : Fld := ⟨.hostQStatus, 0, 1⟩
def hostQStatusTailErr : Fld := ⟨.hostQStatus, 1, 1⟩
def hostQStatusCplFull : Fld := ⟨.hostQStatus, 2, 1⟩
def hostQStatusRunning : Fld := ⟨.hostQStatus, 3, 1⟩
def hostQPasidPasid : Fld := ⟨.hostQPasid, 0, 20⟩
def hostQPasidEn : Fld := ⟨.hostQPasid, 31, 1⟩
def hostGateValue : Fld := ⟨.hostGate, 0, 32⟩
def hostGateAddInc : Fld := ⟨.hostGateAdd, 0, 32⟩
def hostPortStatusUp : Fld := ⟨.hostPortStatus, 0, 1⟩
def hostPortStatusRate : Fld := ⟨.hostPortStatus, 1, 3⟩
def hostPortStatusWidth : Fld := ⟨.hostPortStatus, 4, 4⟩
def hostPortStatusFlit : Fld := ⟨.hostPortStatus, 8, 1⟩
def hostPortStatusIde : Fld := ⟨.hostPortStatus, 9, 1⟩
def hostPartCfgLayout : Fld := ⟨.hostPartCfg, 0, 2⟩
def hostPartCfgOwner : Fld := ⟨.hostPartCfg, 4, 4⟩
def hostPartCommitCommit : Fld := ⟨.hostPartCommit, 0, 1⟩
def hostPartStagedLayout : Fld := ⟨.hostPartStaged, 0, 2⟩
def hostPartStagedOwner : Fld := ⟨.hostPartStaged, 4, 4⟩
def hostMgmtOwner : Fld := ⟨.hostMgmt, 0, 1⟩
def hostMgmtLapsed : Fld := ⟨.hostMgmt, 1, 1⟩
def hostMgmtLast : Fld := ⟨.hostMgmt, 2, 2⟩
def hostMgmtAltVector : Fld := ⟨.hostMgmt, 8, 8⟩
def hostMgmtHbMs : Fld := ⟨.hostMgmt, 16, 16⟩
def hostMgmtCmdCmd : Fld := ⟨.hostMgmtCmd, 0, 2⟩
def hostAbortGo : Fld := ⟨.hostAbort, 0, 1⟩
def hostAbortVector : Fld := ⟨.hostAbort, 8, 8⟩
def hostAbortStatusBusy : Fld := ⟨.hostAbortStatus, 0, 1⟩
def hostAbortStatusDone : Fld := ⟨.hostAbortStatus, 1, 1⟩
def hostAbortStatusFromFold : Fld := ⟨.hostAbortStatus, 2, 1⟩
def hostBar4WinBase : Fld := ⟨.hostBar4Win, 36, 16⟩
def pwrStateP0 : Fld := ⟨.pwrState, 0, 3⟩
def pwrStateP1 : Fld := ⟨.pwrState, 4, 3⟩
def pwrStateP2 : Fld := ⟨.pwrState, 8, 3⟩
def pwrStateP3 : Fld := ⟨.pwrState, 12, 3⟩
def pwrStateModule : Fld := ⟨.pwrState, 16, 3⟩
def pwrCmdStandby : Fld := ⟨.pwrCmd, 0, 1⟩
def pwrCmdWake : Fld := ⟨.pwrCmd, 1, 1⟩
def pwrCapHostCapW : Fld := ⟨.pwrCapHost, 0, 11⟩
def pwrLimitsEffectiveW : Fld := ⟨.pwrLimits, 0, 11⟩
def pwrLimitsBinding : Fld := ⟨.pwrLimits, 12, 3⟩
def pwrLimitsI3cCapW : Fld := ⟨.pwrLimits, 16, 11⟩
def pwrShedShedW : Fld := ⟨.pwrShed, 0, 11⟩
def pwrShedPin : Fld := ⟨.pwrShed, 16, 1⟩
def pwrSupplyCfgVLoDv : Fld := ⟨.pwrSupplyCfg, 0, 10⟩
def pwrSupplyCfgVHiDv : Fld := ⟨.pwrSupplyCfg, 10, 10⟩
def pwrSupplyCfgFloorW : Fld := ⟨.pwrSupplyCfg, 20, 11⟩
def pwrSupplyCfgEn : Fld := ⟨.pwrSupplyCfg, 31, 1⟩
def pwrCtrlMarginW : Fld := ⟨.pwrCtrl, 0, 6⟩
def pwrCtrlKnee : Fld := ⟨.pwrCtrl, 8, 8⟩
def pwrCtrlRampWPerMs : Fld := ⟨.pwrCtrl, 16, 11⟩
def pwrCtrlLearnReset : Fld := ⟨.pwrCtrl, 31, 1⟩
def pwrThermalTTarget : Fld := ⟨.pwrThermal, 0, 7⟩
def pwrThermalHbmLimit : Fld := ⟨.pwrThermal, 8, 7⟩
def pwrInputVInDv : Fld := ⟨.pwrInput, 0, 10⟩
def pwrInputIInCa : Fld := ⟨.pwrInput, 10, 12⟩
def pwrInputWAvg1msW : Fld := ⟨.pwrInputW, 0, 11⟩
def pwrInputWAvg100usW : Fld := ⟨.pwrInputW, 16, 11⟩
def pwrFoldFoldW : Fld := ⟨.pwrFold, 0, 11⟩
def pwrFoldOp0W : Fld := ⟨.pwrFold, 11, 11⟩
def pwrFoldDuty : Fld := ⟨.pwrFold, 22, 7⟩
def pwrStatusCapBelowFold : Fld := ⟨.pwrStatus, 0, 1⟩
def pwrStatusShedding : Fld := ⟨.pwrStatus, 1, 1⟩
def pwrStatusFoldEntered : Fld := ⟨.pwrStatus, 2, 1⟩
def pwrStatusThermal : Fld := ⟨.pwrStatus, 3, 1⟩
def pwrStatusSupplyFault : Fld := ⟨.pwrStatus, 4, 1⟩
def pwrStatusCalRange : Fld := ⟨.pwrStatus, 5, 1⟩
def pwrStatusClamped : Fld := ⟨.pwrStatus, 6, 1⟩
def pwrIrqVector : Fld := ⟨.pwrIrq, 0, 8⟩
def pwrIrqEn : Fld := ⟨.pwrIrq, 8, 1⟩
def pwrCalK : Fld := ⟨.pwrCal, 0, 32⟩
def pwrTempT : Fld := ⟨.pwrTemp, 0, 12⟩
def pwrTempHubT : Fld := ⟨.pwrTempHub, 0, 12⟩
def pwrInputUjCount : Fld := ⟨.pwrInputUj, 0, 64⟩
def pwrHbmTempT : Fld := ⟨.pwrHbmTemp, 0, 12⟩
def pwrPartMaxOp : Fld := ⟨.pwrPart, 0, 4⟩
def pwrPartGrazeEn : Fld := ⟨.pwrPart, 4, 1⟩
def pwrPartGrazeUs : Fld := ⟨.pwrPart, 8, 8⟩
def pwrPartWeight : Fld := ⟨.pwrPart, 16, 4⟩
def pwrPartFoldReq : Fld := ⟨.pwrPart, 20, 1⟩
def pwrThrNowReasons : Fld := ⟨.pwrThrNow, 0, 7⟩
def pwrPhasePrefOp : Fld := ⟨.pwrPhase, 0, 4⟩
def pwrPhaseLearn : Fld := ⟨.pwrPhase, 4, 1⟩
def pwrLearnSelPart : Fld := ⟨.pwrLearnSel, 0, 2⟩
def pwrLearnSelPhase : Fld := ⟨.pwrLearnSel, 4, 4⟩
def pwrLearnSelOp : Fld := ⟨.pwrLearnSel, 8, 4⟩
def pwrLearnDataWattsDw : Fld := ⟨.pwrLearnData, 0, 12⟩
def pwrLearnDataProgress : Fld := ⟨.pwrLearnData, 12, 11⟩
def pwrLearnDataLearned : Fld := ⟨.pwrLearnData, 30, 1⟩
def pwrLearnDataValid : Fld := ⟨.pwrLearnData, 31, 1⟩
def pwrThrCount : Fld := ⟨.pwrThr, 0, 64⟩
def secLifecycleState : Fld := ⟨.secLifecycle, 0, 2⟩
def secLifecycleRecovery : Fld := ⟨.secLifecycle, 2, 1⟩
def secLifecycleSvnFuse : Fld := ⟨.secLifecycle, 8, 7⟩
def secLifecycleSvnImage : Fld := ⟨.secLifecycle, 16, 7⟩
def secCmdCmd : Fld := ⟨.secCmd, 0, 4⟩
def secCmdStatusBusy : Fld := ⟨.secCmdStatus, 0, 1⟩
def secCmdStatusDone : Fld := ⟨.secCmdStatus, 1, 1⟩
def secCmdStatusResult : Fld := ⟨.secCmdStatus, 4, 3⟩
def secCmdStatusLastCmd : Fld := ⟨.secCmdStatus, 8, 4⟩
def secImgLenLength : Fld := ⟨.secImgLen, 0, 23⟩
def secImgBaseBase : Fld := ⟨.secImgBase, 16, 6⟩
def secIrqVector : Fld := ⟨.secIrq, 0, 8⟩
def secIrqEn : Fld := ⟨.secIrq, 8, 1⟩
def secIrqLmsLow : Fld := ⟨.secIrq, 16, 1⟩
def secIrqTokenRefused : Fld := ⟨.secIrq, 17, 1⟩
def secLmsLeftLeft : Fld := ⟨.secLmsLeft, 0, 64⟩
def secNonceNonce : Fld := ⟨.secNonce, 0, 64⟩
def nvsStatusLive : Fld := ⟨.nvsStatus, 0, 13⟩
def nvsStatusTorn : Fld := ⟨.nvsStatus, 16, 1⟩
def nvsStatusDamaged : Fld := ⟨.nvsStatus, 17, 1⟩
def nvsStatusSkipped : Fld := ⟨.nvsStatus, 18, 1⟩
def nvsCmdStore : Fld := ⟨.nvsCmd, 0, 1⟩
def nvsCmdStatusBusy : Fld := ⟨.nvsCmdStatus, 0, 1⟩
def nvsCmdStatusDone : Fld := ⟨.nvsCmdStatus, 1, 1⟩
def nvsCmdStatusResult : Fld := ⟨.nvsCmdStatus, 4, 3⟩
def nvsCmdStatusBadIndex : Fld := ⟨.nvsCmdStatus, 8, 7⟩
def nvsStageCtrlCountMinus1 : Fld := ⟨.nvsStageCtrl, 0, 7⟩
def nvsStageCtrlTarget : Fld := ⟨.nvsStageCtrl, 8, 1⟩
def nvsIrqVector : Fld := ⟨.nvsIrq, 0, 8⟩
def nvsIrqEn : Fld := ⟨.nvsIrq, 8, 1⟩
def nvsRdAddrOffset : Fld := ⟨.nvsRdAddr, 8, 15⟩
def nvsSeqSeq : Fld := ⟨.nvsSeq, 0, 32⟩
def nvsWearUserPct : Fld := ⟨.nvsWear, 0, 8⟩
def nvsWearFactoryPct : Fld := ⟨.nvsWear, 8, 8⟩
def nvsWearLmsPct : Fld := ⟨.nvsWear, 16, 8⟩
def nvsWearFlogPct : Fld := ⟨.nvsWear, 24, 8⟩
def nvsFlogCountCount : Fld := ⟨.nvsFlogCount, 0, 64⟩
def fabCoordX : Fld := ⟨.fabCoord, 0, 4⟩
def fabCoordY : Fld := ⟨.fabCoord, 4, 4⟩
def fabCoordZ : Fld := ⟨.fabCoord, 8, 4⟩
def fabTorusDimXMinus1 : Fld := ⟨.fabTorus, 0, 4⟩
def fabTorusDimYMinus1 : Fld := ⟨.fabTorus, 4, 4⟩
def fabTorusDimZMinus1 : Fld := ⟨.fabTorus, 8, 4⟩
def fabTorusPenLog2 : Fld := ⟨.fabTorus, 12, 2⟩
def fabRecalCfgIntervalMs : Fld := ⟨.fabRecalCfg, 0, 14⟩
def fabIrqVector : Fld := ⟨.fabIrq, 0, 8⟩
def fabIrqEn : Fld := ⟨.fabIrq, 8, 1⟩
def fabGpCtrlTrain : Fld := ⟨.fabGpCtrl, 0, 1⟩
def fabGpCtrlDisable : Fld := ⟨.fabGpCtrl, 1, 1⟩
def fabGpCtrlRecalNow : Fld := ⟨.fabGpCtrl, 2, 1⟩
def fabGpStatusState : Fld := ⟨.fabGpStatus, 0, 3⟩
def fabGpStatusWidth : Fld := ⟨.fabGpStatus, 3, 1⟩
def fabGpStatusLanesUp : Fld := ⟨.fabGpStatus, 4, 8⟩
def fabGpStatusReason : Fld := ⟨.fabGpStatus, 12, 3⟩
def fabGpStatusLpi : Fld := ⟨.fabGpStatus, 15, 1⟩
def fabGpStatusNarrowed : Fld := ⟨.fabGpStatus, 16, 1⟩
def fabGpStatusWentDown : Fld := ⟨.fabGpStatus, 17, 1⟩
def fabGpPartnerX : Fld := ⟨.fabGpPartner, 0, 4⟩
def fabGpPartnerY : Fld := ⟨.fabGpPartner, 4, 4⟩
def fabGpPartnerZ : Fld := ⟨.fabGpPartner, 8, 4⟩
def fabGpPartnerPort : Fld := ⟨.fabGpPartner, 12, 3⟩
def fabGpPartnerValid : Fld := ⟨.fabGpPartner, 15, 1⟩
def fabGpTxFlitsCount : Fld := ⟨.fabGpTxFlits, 0, 64⟩
def fabGpRxFlitsCount : Fld := ⟨.fabGpRxFlits, 0, 64⟩
def fabGpFecCorrCount : Fld := ⟨.fabGpFecCorr, 0, 64⟩
def fabGpFecUncorrCount : Fld := ⟨.fabGpFecUncorr, 0, 64⟩
def fabGpCrcErrCount : Fld := ⟨.fabGpCrcErr, 0, 64⟩
def fabGpReplaysCount : Fld := ⟨.fabGpReplays, 0, 64⟩
def fabGpCreditWaitCount : Fld := ⟨.fabGpCreditWait, 0, 64⟩
def fabGpRecalsCount : Fld := ⟨.fabGpRecals, 0, 64⟩
def redCfgRedHeadroomBits : Fld := ⟨.redCfg, 0, 4⟩
def redCfgRedHeadroomAuto : Fld := ⟨.redCfg, 4, 1⟩
def redCfgSelfTest : Fld := ⟨.redCfg, 5, 1⟩
def redWaitRedWaitLimit : Fld := ⟨.redWait, 0, 12⟩
def redWaitRedCompareWindow : Fld := ⟨.redWait, 16, 12⟩
def redShepShepLog2 : Fld := ⟨.redShep, 0, 4⟩
def redShepGen : Fld := ⟨.redShep, 8, 8⟩
def redLayoutCommit : Fld := ⟨.redLayout, 0, 1⟩
def redLayoutForce : Fld := ⟨.redLayout, 1, 1⟩
def redLayoutPending : Fld := ⟨.redLayout, 8, 1⟩
def redLayoutGenCur : Fld := ⟨.redLayout, 16, 8⟩
def redStatusInFlight : Fld := ⟨.redStatus, 0, 9⟩
def redStatusParked : Fld := ⟨.redStatus, 9, 1⟩
def redStatusForced32 : Fld := ⟨.redStatus, 10, 1⟩
def redStatusEscalated : Fld := ⟨.redStatus, 11, 1⟩
def redStatusDiverged : Fld := ⟨.redStatus, 12, 1⟩
def redStatusSeqFault : Fld := ⟨.redStatus, 13, 1⟩
def redStatusNoiseValid : Fld := ⟨.redStatus, 14, 1⟩
def redSeqNext : Fld := ⟨.redSeq, 0, 32⟩
def redLateRank : Fld := ⟨.redLate, 0, 12⟩
def redLateValid : Fld := ⟨.redLate, 15, 1⟩
def redNoiseCfgAlpha : Fld := ⟨.redNoiseCfg, 0, 8⟩
def redNoiseCfgEmaReset : Fld := ⟨.redNoiseCfg, 8, 1⟩
def redNoiseLocalF : Fld := ⟨.redNoiseLocal, 0, 32⟩
def redNoiseGlobalF : Fld := ⟨.redNoiseGlobal, 0, 32⟩
def redNoiseLocalEmaF : Fld := ⟨.redNoiseLocalEma, 0, 32⟩
def redNoiseGlobalEmaF : Fld := ⟨.redNoiseGlobalEma, 0, 32⟩
def redCollectivesCount : Fld := ⟨.redCollectives, 0, 64⟩
def redEscalationsCount : Fld := ⟨.redEscalations, 0, 64⟩
def redForced32Count : Fld := ⟨.redForced32, 0, 64⟩
def redPeerWaitNsCount : Fld := ⟨.redPeerWaitNs, 0, 64⟩
def redMissingCount : Fld := ⟨.redMissing, 0, 64⟩
def redDivergenceCount : Fld := ⟨.redDivergence, 0, 64⟩
def redShadowMapPrimary : Fld := ⟨.redShadowMap, 0, 12⟩
def redShadowMapShadow : Fld := ⟨.redShadowMap, 16, 12⟩
def redShadowMapValid : Fld := ⟨.redShadowMap, 31, 1⟩
def memMapT1Mode : Fld := ⟨.memMap, 0, 1⟩
def memMapT2Mode : Fld := ⟨.memMap, 1, 1⟩
def memXlatRootRoot : Fld := ⟨.memXlatRoot, 15, 37⟩
def memXlatCtrlEn : Fld := ⟨.memXlatCtrl, 0, 1⟩
def memXlatCtrlAtsEn : Fld := ⟨.memXlatCtrl, 1, 1⟩
def memXlatCtrlPriEn : Fld := ⟨.memXlatCtrl, 2, 1⟩
def memXlatInvAddrAddr : Fld := ⟨.memXlatInvAddr, 16, 40⟩
def memXlatInvStart : Fld := ⟨.memXlatInv, 0, 1⟩
def memXlatInvAll : Fld := ⟨.memXlatInv, 1, 1⟩
def memXlatInvSizeLog2 : Fld := ⟨.memXlatInv, 2, 6⟩
def memXlatInvDone : Fld := ⟨.memXlatInv, 31, 1⟩
def memStageSize : Fld := ⟨.memStage, 0, 2⟩
def fltStatusModuleFault : Fld := ⟨.fltStatus, 0, 1⟩
def fltStatusCeAlarm : Fld := ⟨.fltStatus, 1, 1⟩
def fltStatusMgmtRestart : Fld := ⟨.fltStatus, 2, 1⟩
def fltStatusPoisonNew : Fld := ⟨.fltStatus, 3, 1⟩
def fltStatusNotice : Fld := ⟨.fltStatus, 4, 1⟩
def fltIrqVector : Fld := ⟨.fltIrq, 0, 8⟩
def fltIrqEn : Fld := ⟨.fltIrq, 8, 1⟩
def fltPartStatusFaulted : Fld := ⟨.fltPartStatus, 0, 1⟩
def fltPartStatusReclaiming : Fld := ⟨.fltPartStatus, 1, 1⟩
def fltPartStatusNotice : Fld := ⟨.fltPartStatus, 2, 1⟩
def fltPartStatusCode : Fld := ⟨.fltPartStatus, 16, 16⟩
def fltPartCtrlClear : Fld := ⟨.fltPartCtrl, 0, 1⟩
def fltPartCtrlReclaim : Fld := ⟨.fltPartCtrl, 1, 1⟩
def fltPartIrqVector : Fld := ⟨.fltPartIrq, 0, 8⟩
def fltPartIrqEn : Fld := ⟨.fltPartIrq, 8, 1⟩
def fltLogSelN : Fld := ⟨.fltLogSel, 0, 32⟩
def fltLogCountCount : Fld := ⟨.fltLogCount, 0, 32⟩
def fltScrubCfgPeriodH : Fld := ⟨.fltScrubCfg, 0, 8⟩
def fltScrubCfgEn : Fld := ⟨.fltScrubCfg, 8, 1⟩
def fltScrubStatusBehind : Fld := ⟨.fltScrubStatus, 0, 1⟩
def fltScrubStatusForced : Fld := ⟨.fltScrubStatus, 1, 1⟩
def fltScrubStatusPassPct : Fld := ⟨.fltScrubStatus, 8, 7⟩
def fltCeLimitPerHour : Fld := ⟨.fltCeLimit, 0, 16⟩
def fltCeTier1Count : Fld := ⟨.fltCeTier1, 0, 64⟩
def fltCeTier2Count : Fld := ⟨.fltCeTier2, 0, 64⟩
def fltCeDieCount : Fld := ⟨.fltCeDie, 0, 64⟩
def fltCeHubCount : Fld := ⟨.fltCeHub, 0, 64⟩
def fltPoisonedCount : Fld := ⟨.fltPoisoned, 0, 64⟩
def fltScrubForcedSlotsCount : Fld := ⟨.fltScrubForcedSlots, 0, 64⟩
def fltTelDropsCount : Fld := ⟨.fltTelDrops, 0, 64⟩
def fltLogLostCount : Fld := ⟨.fltLogLost, 0, 64⟩
def fltNvSkippedCount : Fld := ⟨.fltNvSkipped, 0, 64⟩
def telLoLimitsLetoutSatLimit : Fld := ⟨.telLoLimits, 0, 11⟩
def telLoLimitsLetoutZeroLimit : Fld := ⟨.telLoLimits, 16, 11⟩
def telLoPolicyLetoutRatchetSteps : Fld := ⟨.telLoPolicy, 0, 8⟩
def telLoPolicyLetoutStormLimit : Fld := ⟨.telLoPolicy, 8, 11⟩
def telLoPolicyLetoutStormPin : Fld := ⟨.telLoPolicy, 20, 1⟩
def telLoStatusStorm : Fld := ⟨.telLoStatus, 0, 1⟩
def telLoStatusPinned : Fld := ⟨.telLoStatus, 1, 1⟩
def telLoStatusUnpinPending : Fld := ⟨.telLoStatus, 2, 1⟩
def telLoStatusLastFraction : Fld := ⟨.telLoStatus, 4, 11⟩
def telLoCtrlUnpin : Fld := ⟨.telLoCtrl, 0, 1⟩
def telStatGroupsGroups : Fld := ⟨.telStatGroups, 0, 32⟩
def telLoPassesCount : Fld := ⟨.telLoPasses, 0, 64⟩
def telLoLetoutsCount : Fld := ⟨.telLoLetouts, 0, 64⟩
def telEnergyModuleCount : Fld := ⟨.telEnergyModule, 0, 64⟩
def telEnergyPartCount : Fld := ⟨.telEnergyPart, 0, 64⟩
def telEnergyIdleCount : Fld := ⟨.telEnergyIdle, 0, 64⟩
def telEnergyQCount : Fld := ⟨.telEnergyQ, 0, 64⟩
def telPtagApplied : Fld := ⟨.telPtag, 0, 48⟩
def telPtagDelivery : Fld := ⟨.telPtag, 48, 16⟩
def dbgLevelCur : Fld := ⟨.dbgLevel, 0, 2⟩
def dbgLevelMax : Fld := ⟨.dbgLevel, 4, 2⟩
def dbgLevelParts : Fld := ⟨.dbgLevel, 8, 4⟩
def dbgLevelRemainS : Fld := ⟨.dbgLevel, 16, 16⟩
def dbgCtrlUnlock : Fld := ⟨.dbgCtrl, 0, 1⟩
def dbgCtrlRelock : Fld := ⟨.dbgCtrl, 1, 1⟩
def dbgTraceSelN : Fld := ⟨.dbgTraceSel, 0, 32⟩
def dieOpStatusOpCur : Fld := ⟨.dieOpStatus, 0, 4⟩
def dieOpStatusOpTgt : Fld := ⟨.dieOpStatus, 4, 4⟩
def dieOpStatusMoving : Fld := ⟨.dieOpStatus, 8, 1⟩
def dieBeatCountCount : Fld := ⟨.dieBeatCount, 0, 64⟩
def dieDroopCfgThreshMv : Fld := ⟨.dieDroopCfg, 0, 6⟩
def dieDroopCountCount : Fld := ⟨.dieDroopCount, 0, 64⟩
def dieRingStatusDlUp : Fld := ⟨.dieRingStatus, 0, 1⟩
def dieRingStatusDlOff : Fld := ⟨.dieRingStatus, 1, 1⟩
def dieRingStatusHubUp : Fld := ⟨.dieRingStatus, 2, 1⟩
def dieReqStatusOutstanding : Fld := ⟨.dieReqStatus, 0, 15⟩
def dieReqStatusOffload : Fld := ⟨.dieReqStatus, 16, 13⟩
def dieReqFullBeatsCount : Fld := ⟨.dieReqFullBeats, 0, 64⟩
def dieDrvStatusQueued : Fld := ⟨.dieDrvStatus, 0, 6⟩
def dieDrvStatusActive : Fld := ⟨.dieDrvStatus, 6, 1⟩
def dieDrvIndicesCount : Fld := ⟨.dieDrvIndices, 0, 64⟩
def dieDrvRequestsCount : Fld := ⟨.dieDrvRequests, 0, 64⟩
def coreMxStatusKindA : Fld := ⟨.coreMxStatus, 0, 1⟩
def coreMxStatusKindB : Fld := ⟨.coreMxStatus, 1, 1⟩
def coreMxStatusBusyA : Fld := ⟨.coreMxStatus, 2, 1⟩
def coreMxStatusBusyB : Fld := ⟨.coreMxStatus, 3, 1⟩
def coreMxStatusRowsInFlight : Fld := ⟨.coreMxStatus, 4, 1⟩
def coreMxPassesCount : Fld := ⟨.coreMxPasses, 0, 64⟩
def coreMxRowBeatsCount : Fld := ⟨.coreMxRowBeats, 0, 64⟩
def coreMxFillWaitCount : Fld := ⟨.coreMxFillWait, 0, 64⟩
def coreMxDepWaitCount : Fld := ⟨.coreMxDepWait, 0, 64⟩
def coreStallTier1Count : Fld := ⟨.coreStallTier1, 0, 64⟩
def coreStallTier2Count : Fld := ⟨.coreStallTier2, 0, 64⟩
def coreStallRemoteDieCount : Fld := ⟨.coreStallRemoteDie, 0, 64⟩
def coreStallIndexCount : Fld := ⟨.coreStallIndex, 0, 64⟩
def coreStallGateCount : Fld := ⟨.coreStallGate, 0, 64⟩
def coreStallPeerCount : Fld := ⟨.coreStallPeer, 0, 64⟩
def coreCtxSwitchesCount : Fld := ⟨.coreCtxSwitches, 0, 64⟩
def coreStReadBytesCount : Fld := ⟨.coreStReadBytes, 0, 64⟩
def coreStWriteBytesCount : Fld := ⟨.coreStWriteBytes, 0, 64⟩
def coreStMergesCount : Fld := ⟨.coreStMerges, 0, 64⟩
def coreStStatusSlotsBound : Fld := ⟨.coreStStatus, 0, 16⟩
def coreStStatusContext : Fld := ⟨.coreStStatus, 16, 2⟩
def coreStStatusFaultHeld : Fld := ⟨.coreStStatus, 18, 1⟩
def coreVecElemsCount : Fld := ⟨.coreVecElems, 0, 64⟩
def coreVecBusyCount : Fld := ⟨.coreVecBusy, 0, 64⟩
def dbgCoreCtrlHalt : Fld := ⟨.dbgCoreCtrl, 0, 1⟩
def dbgCoreCtrlResume : Fld := ⟨.dbgCoreCtrl, 1, 1⟩
def dbgCoreCtrlStep : Fld := ⟨.dbgCoreCtrl, 2, 1⟩
def dbgCoreStatusHalted : Fld := ⟨.dbgCoreStatus, 0, 1⟩
def dbgCoreStatusPending : Fld := ⟨.dbgCoreStatus, 1, 1⟩
def dbgCoreStatusContext : Fld := ⟨.dbgCoreStatus, 2, 2⟩
def dbgCoreStatusSlot : Fld := ⟨.dbgCoreStatus, 16, 16⟩
end F

end Sys2Proof.Machine
end

