-- ==== Sys2Proof/Machine/State.lean ====
section
/-! DEFINITION. The state of the module as plain data, the single updates that change it, the stops and the state after
reset. Every later definition changes the state through a list of `Upd`, and no `Upd` touches the command queue. -/

namespace Sys2Proof.Machine

/-- A table of values by key; a key that is not listed has the value that the reader of the table names. -/
abbrev Tbl (κ α : Type) := List (κ × α)

def tget {κ α : Type} [DecidableEq κ] (t : Tbl κ α) (k : κ) (d : α) : α :=
  match t with
  | [] => d
  | (k', v) :: r => if k' = k then v else tget r k d

def tset {κ α : Type} [DecidableEq κ] (t : Tbl κ α) (k : κ) (v : α) : Tbl κ α :=
  (k, v) :: t.filter fun p => decide (p.1 ≠ k)

def tdel {κ α : Type} [DecidableEq κ] (t : Tbl κ α) (k : κ) : Tbl κ α := t.filter fun p => decide (p.1 ≠ k)

/-- The physical memory (R15-R17): listed bytes with strictly rising addresses, poisoned 64-byte granules (R478) in rising
order, and ranges given new contents as a whole (first byte, byte after the last), newest first: undefined contents of a
draw (R23, R311) or zeros (R484). -/
structure Mem where
  cells : List Host.Cell := []
  poison : List Nat := []
  undef : List (Nat × Nat × Option Nat) := []
  /-- poisoned granules that patrol scrub has reported (R479) -/
  reported : List Nat := []
  deriving DecidableEq, Repr

/-- Both signatures of a signed SPDM response (R506): ECDSA under the Alias key, and LMS with its one-time index. -/
structure DualSig where
  ecdsa : List Byte
  index : Nat
  lms : List Byte
  deriving DecidableEq, Repr

/-- One measurement block (R509): its index and its raw value or digest. -/
structure MeasBlock where
  index : Nat
  value : List Byte
  deriving DecidableEq, Repr

/-- Answers of a function's DOE mailbox. The messages' layouts are those of DMTF and PCI-SIG, which the spec does not carry
(log 11): an answer is given by what R459 and R505 to R509 say it holds. -/
inductive DoeRsp
  /-- DOE Discovery: vendor, protocol and next index -/
  | discovery (vendor protocol next : Nat)
  | version (versions : List Nat)
  | capabilities (names : List String)
  | algorithms (names : List String)
  | certificate (portion : List Byte) (remainder : Nat)
  | challengeAuth (sig : DualSig)
  | measurements (blocks : List MeasBlock) (sig : Option DualSig)
  | keyExchange (session : Nat) (sig : DualSig)
  | finish (session : Nat)
  | heartbeatAck (session : Nat)
  | keyUpdateAck (session : Nat)
  | endSessionAck (session : Nat)
  | csr
  | setCertificate
  | ideKm (stream : Nat)
  /-- an SPDM ERROR with its code -/
  | error (code : Nat)
  deriving DecidableEq, Repr

/-- What the outside of the module receives, in the order in which it left. -/
inductive Out
  /-- an MSI-X message (R212, R462) -/
  | msix (f : Fn) (vector : Nat) (addr data : Nat)
  /-- a posted write into the host memory of a function (R201, R300) -/
  | hostWrite (f : Fn) (addr : Nat) (bytes : List Byte)
  /-- the completion of a read by a function -/
  | read (f : Fn) (bytes : List Byte) (poisoned : Bool)
  /-- an ATS translation request and a page request (R184) -/
  | atsRequest (f : Fn) (p ps page : Nat) (write : Bool)
  | pageRequest (f : Fn) (pasid prgi page : Nat)
  | atsInvalidateDone (f : Fn) (page sizeLog2 : Nat)
  /-- a DATA flit on a Garjor port: header, payload (R346) -/
  | flit (g : Nat) (hdr : Nat) (payload : List Byte)
  /-- a CTRL flit: header, payload and the content that the payload stands for; an IDLE or NAK flit. The spec gives their payloads no
  layout (log 10) -/
  | ctrlFlit (g : Nat) (hdr : Nat) (payload : List Byte) (c : Ctrl)
  | bareFlit (g : Nat) (hdr : Nat) (payload : List Byte)
  /-- what the lanes of a port carry: the symbols of a codeword on each lane, and the alignment markers (R343) -/
  | codeword (g : Nat) (lanes : List (Nat × List Nat))
  | marker (g : Nat) (lanes : List Nat)
  /-- a packet of VC_4 to VC_7 for this module: a message to the management core (R350) -/
  | mgmtPacket (vc : Nat) (bytes : List Byte)
  /-- the refresh and wake patterns of low-power idle (R366) -/
  | lpiPattern (g : Nat) (wake : Bool)
  /-- an answer on the sideband and test buses (R434, R516, R563) -/
  | i3c (bytes : List Byte)
  | pmbus (bytes : List Byte)
  | tdo (bits : List Bool)
  | i3cIbi (b : Byte)
  /-- an answer of the DOE mailbox (R459, R505, R506) -/
  | doe (f : Fn) (r : DoeRsp)
  deriving DecidableEq, Repr

/-- An outstanding page request (R184): the queue and task that it concerns, and whether the task has faulted for it. -/
structure PageReq where
  p : Nat
  q : Nat
  index : Nat
  startTime : Nat
  irq : Bool
  pasid : Nat
  prgi : Nat
  faulted : Bool
  /-- LAYER restarts and let-out passes of the faulted task, for the record of the answer (R211) -/
  restarts : Nat := 0
  letouts : Nat := 0
  deriving DecidableEq, Repr

/-- What each function has of its own (R545, R462, R460) -/
structure FnState where
  /-- MSI-X table entries: vector -> (address, data, masked) -/
  msix : Tbl Nat (Nat × Nat × Bool) := []
  pba : List Nat := []
  msixEnable : Bool := true
  /-- high halves latched by R4, by register offset -/
  latch : Tbl Nat Nat := []
  logView : List Byte := List.replicate 32 0
  nvsView : List Byte := List.replicate 256 0
  traceView : List Byte := List.replicate 16 0
  /-- host memory bytes as last written or delivered; an unlisted byte is free (log 7) -/
  host : List Host.Cell := []
  /-- outstanding page requests (R184, R186) and the number of the next group -/
  prq : List PageReq := []
  /-- ATS Invalidate Requests that wait for requests in flight: (page, log2 of the size) (R184) -/
  invs : List (Nat × Nat) := []
  prgi : Nat := 0
  /-- port reset line PERST_N asserted (R560) and the D-state (R471) -/
  perst : Bool := false
  d3hot : Bool := false
  /-- while this function is the management owner: no HEARTBEAT has come for HB_MS (R467) -/
  hbLate : Bool := false
  deriving DecidableEq, Repr

/-- Geometry of a convolution WINDOW stream (R157). -/
structure ConvGeom where
  kw : Nat
  kh : Nat
  sw : Nat
  sh : Nat
  dw : Nat
  dh : Nat
  pwLo : Nat
  pwHi : Nat
  phLo : Nat
  phHi : Nat
  c : Nat
  w : Nat
  h : Nat
  batchStride : Nat
  batch : Nat
  rowBlock : Nat
  deriving DecidableEq, Repr

/-- The body of a stream descriptor (R155-R158). -/
inductive Body
  | linear (counts : List Nat) (strides : List Int)
  | indexed (idxBase idxCount rowElems rowStride rowLimit rowBlock : Nat)
  | conv (g : ConvGeom)
  | neighbour (fanout feat nbBase segBase nodeCount featStride rowLimit rowBlock : Nat)
  | scatter (idxBase idxCount rowElems rowStride rowLimit : Nat) (add : Bool)
  deriving DecidableEq, Repr

/-- A stream descriptor (R151-R154). -/
structure Desc where
  store : Bool
  memFmt : Fmt
  coreFmt : Fmt
  scaled : Bool
  scaleSrc : Nat
  blockDim : Nat
  tensorId : Nat
  stat : Bool
  ovf : Bool
  sat : Bool
  tiled : Bool
  va : Bool
  persist : Bool
  offload : Bool
  mcast : Bool
  faultEarly : Bool
  cscaled : Bool
  base : Nat
  scaleBase : Nat
  body : Body
  deriving DecidableEq, Repr

/-- What run-ahead holds of a persistent stream for a later task (R172, R176): the descriptor that the opening REARM words of the tasks up to
it will give the stream, the next element to fetch, and the staged data. -/
structure Later where
  task : Nat
  desc : Desc
  ahead : Nat := 0
  staged : List (Nat × List Byte) := []
  upto : Tbl Nat Nat := []
  deriving DecidableEq, Repr

/-- A bound stream (R149). -/
structure Stream where
  addr : Nat
  desc : Desc
  /-- the task that uses the stream, and the task whose BIND made it -/
  boundBy : Nat
  owner : Nat
  /-- the descriptor with the bases it had when each task that is not yet complete found it in its slot (R175) -/
  starts : List (Nat × Desc) := []
  /-- the REARM instructions since the bind: WHICH, MODE and ADDR (R252) -/
  arms : List (Nat × Bool × Nat) := []
  ready : Bool := false
  /-- elements delivered or received -/
  pos : Nat := 0
  /-- source elements received by a store stream and not yet in a whole write group: (element, value, raw bits) -/
  held : List (Nat × Num × Nat) := []
  /-- staged 256-byte segments by location (R150) -/
  staged : List (Nat × List Byte) := []
  /-- for each staged segment, the first element after those it holds -/
  upto : Tbl Nat Nat := []
  /-- next element whose segment run-ahead fetches (R172) -/
  ahead : Nat := 0
  /-- what run-ahead holds for later tasks, in queue order (R172, R176) -/
  later : List Later := []
  /-- bound during run-ahead; its BIND has not been executed (R177) -/
  early : Bool := false
  /-- its reader waits for bytes that are not staged, as the fill path and the row path of a pass do (R84) -/
  strict : Bool := false
  /-- bytes as they were before later stores of the core, for a pass issued before those stores (R10) -/
  old : List (Nat × List Byte) := []
  /-- the core has left its multicast group (R170, R252) -/
  left : Bool := false
  deriving DecidableEq, Repr

/-- What a core context waits for. -/
inductive Wait
  | none
  | gate (g v : Nat)
  | barrier (id : Nat)
  | drover
  deriving DecidableEq, Repr

/-- One loop being run: first slot of its body, slots in the body, iterations left after this one (R261). -/
structure LoopFrame where
  start : Nat
  len : Nat
  left : Nat
  deriving DecidableEq, Repr

/-- One task context of a core (R213). -/
structure Ctx where
  task : Option Nat := none
  slot : Nat := 0
  loops : List LoopFrame := []
  wait : Wait := .none
  barriers : Nat := 0
  /-- buffers A and B: held by this context (R214), written in this task (R215) -/
  holdA : Bool := false
  holdB : Bool := false
  wroteA : Bool := false
  wroteB : Bool := false
  /-- the later task into which run-ahead has gone (R172) -/
  ahead : Option Nat := none
  /-- multicast streams that the task has released: slot and descriptor address (R170) -/
  released : List (Nat × Nat) := []
  deriving DecidableEq, Repr

/-- Running sums of R124 for the two let-out tiles of a pass and its repeats. -/
structure TileCounts where
  wSat : Nat := 0
  wZero : Nat := 0
  aSat : Nat := 0
  aZero : Nat := 0
  /-- NONFINITE and ZERO_BLOCK of R115 -/
  wNonfinite : Nat := 0
  wZeroBlocks : Nat := 0
  aNonfinite : Nat := 0
  aZeroBlocks : Nat := 0
  deriving DecidableEq, Repr

/-- Counts of one tensor over a step or a task (R141). -/
structure TensorCounts where
  elements : Nat := 0
  zeros : Nat := 0
  zeroed : Nat := 0
  saturated : Nat := 0
  nonfinite : Nat := 0
  maxMag : Num := .zero false
  letouts : Nat := 0
  /-- blocks whose source elements are all zero (R115, R116) -/
  zeroBlocks : Nat := 0
  deriving DecidableEq, Repr

/-- One element as a stream delivers it: masked, or its bits with its block's scale code and the marks of its
conversion. -/
structure DElem where
  masked : Bool := false
  bits : Nat := 0
  scale : Nat := 0x7F
  conv : Option Conv := none
  src : Num := .zero false
  /-- the first counted element of a block whose source elements are all zero (R115, R116) -/
  zeroBlock : Bool := false
  deriving DecidableEq, Repr

/-- One matrix pass, with its repeats (R83, R126-R130). `rung` counts from 0 on the pass's ladder. -/
structure PassGroup where
  id : Nat
  task : Nat
  ctx : Nat
  op : MpassOp
  w : Stream
  a : Stream
  rung : Nat := 0
  counts : TileCounts := {}
  /-- tensors whose own tile let out so far (R135) -/
  outW : Bool := false
  outA : Bool := false
  letouts : Nat := 0
  /-- verdict of R125: none while open, some true a let-out, some false kept -/
  verdict : Option Bool := none
  statsW : TensorCounts := {}
  statsA : TensorCounts := {}
  deriving DecidableEq, Repr

/-- One run of the arrays: one K × 64 tile and M rows of a pass (R81). -/
structure PassUnit where
  group : Nat
  sub : Nat
  fmt : Fmt
  scaled : Bool
  add : Bool
  /-- weight tile, row-major K × 64, once its fill is complete (R84) -/
  weights : Option (List DElem) := none
  /-- rows admitted -/
  rows : Nat := 0
  /-- results in flight: for each admitted row, 64 lists of the group sums that join an element (R97) -/
  results : List (List (List Num)) := []
  deriving DecidableEq, Repr

/-- A core (R14, R81, R92, R149, R213). -/
structure Core where
  ctxs : Tbl Nat Ctx := []
  running : Nat := 0
  streams : Tbl (Nat × Nat) Stream := []
  /-- rows of output tile buffers A and B, 64 words each; an unlisted row is 64 zeros -/
  tileA : Tbl Nat (List Nat) := []
  tileB : Tbl Nat (List Nat) := []
  kindA : Bool := false
  kindB : Bool := false
  groups : List PassGroup := []
  units : List PassUnit := []
  halted : Bool := false
  haltPending : Bool := false
  step : Bool := false
  /-- persistent streams that a task not yet complete has unbound: the task, the slot, the stream (R175) -/
  unbound : List (Nat × (Nat × Nat) × Stream) := []
  deriving DecidableEq, Repr

/-- A read request in a die's tracker (R166). `loc` is the location of its 256-byte segment or a part of it. -/
structure Request where
  id : Nat
  core : Nat
  ctx : Nat
  slot : Nat
  task : Nat
  loc : Nat
  len : Nat
  offload : Bool
  members : List Nat
  /-- the first element after those whose bytes the request holds -/
  upto : Nat := 0
  /-- the pass, or the later task, whose data it reads; none for the run-ahead of the stream's own task -/
  pass : Option Nat := none
  later : Option Nat := none
  /-- virtual address of its first byte (R183) -/
  va : Option Nat := none
  /-- nothing takes its data any more; it stays outstanding until they are delivered (R166) -/
  dead : Bool := false
  deriving DecidableEq, Repr

/-- A store of a task, from its data's production to its acknowledge (R167). -/
structure Store where
  id : Nat
  core : Nat
  ctx : Nat
  slot : Nat
  task : Nat
  loc : Nat
  bytes : List Byte
  issued : Bool
  offload : Bool
  /-- virtual address of its first byte (R183) -/
  va : Option Nat := none
  /-- the issued store into whose request it was merged (R165) -/
  merged : Option Nat := none
  deriving DecidableEq, Repr

/-- A declared region (R217). -/
structure Region where
  start : Nat
  len : Nat
  kind : Nat
  va : Bool
  deriving DecidableEq, Repr

/-- A task descriptor (R197, R262). -/
structure TaskDesc where
  block : Nat
  bva : Bool
  mask : List Nat
  phase : Nat
  statGroup : Nat
  nonReplayable : Bool
  cpl : Bool
  irq : Bool
  waits : List (Nat × Nat)
  signal : Option (Nat × Nat)
  regions : Nat
  rva : Bool
  regionCount : Nat
  deriving DecidableEq, Repr

/-- A collective as its instruction records it (R253-R255). -/
structure Collective where
  kind : RedKind
  mode : Nat
  group : Nat
  gate : Nat
  src : Nat := 0
  dst : Nat := 0
  count : Nat := 0
  srcFmt : Fmt := .fp32
  dstFmt : Fmt := .fp32
  tensorId : Nat := 0
  grad : Bool := false
  noise : Bool := false
  scaleBase : Nat := 0
  pocketBase : Nat := 0
  deriving DecidableEq, Repr

/-- LIVE values that a task keeps from its dispatch to its end (R5). -/
structure LiveSnap where
  statGroups : Nat := 0
  watchEn : Bool := false
  watchFirst : Nat := 0
  watchLast : Nat := 0
  paramEn : Bool := false
  paramFirst : Nat := 0
  paramLast : Nat := 0
  vector : Nat := 0
  deriving DecidableEq, Repr

/-- A dispatched task (R199-R201, R219). -/
structure Task where
  id : Nat
  p : Nat
  q : Nat
  index : Nat
  desc : TaskDesc
  regions : List Region
  ctx : Nat
  dispatchTime : Nat
  live : LiveSnap := {}
  started : List Nat := []
  /-- cores that have ended the block, with the barriers each reached -/
  retired : List (Nat × Nat) := []
  signals : List (Nat × Nat) := []
  collectives : List Collective := []
  restarts : Nat := 0
  letoutPasses : Nat := 0
  controlled : Nat := 0
  /-- rungs raised within the task by LAYER restarts: tensor -> rung (R131) -/
  rungs : Tbl Nat Nat := []
  /-- highest rung at which a pass of each tensor was kept in this run, and the tensors that let out in it (R135) -/
  reached : Tbl Nat Nat := []
  outs : List Nat := []
  stats : Tbl Nat TensorCounts := []
  nonfinite : Bool := false
  deriving DecidableEq, Repr

/-- A completion record that waits for ring space (R210): its 32 bytes without LAP, and whether its message is due. -/
structure CplRecord where
  index : Nat
  status : Nat
  code : Nat
  endTime : Nat
  startTime : Nat
  restarts : Nat
  letouts : Nat
  msg : Bool
  vector : Nat
  deriving DecidableEq, Repr

/-- The machinery of one command queue beside its registers (R202-R210). -/
structure Queue where
  next : Nat := 0
  fetched : Option TaskDesc := none
  done : List Nat := []
  held : Option Nat := none
  /-- cores of the held task (R195) -/
  heldCores : List Nat := []
  records : List CplRecord := []
  deriving DecidableEq, Repr

/-- A cached translation (R183, R184). -/
structure Xlat where
  va : Nat
  size : Nat
  loc : Nat
  r : Bool
  w : Bool
  deriving DecidableEq, Repr

/-- One fault record of the log (R486). -/
structure FaultRec where
  code : Nat
  scope : Nat
  part : Option Nat
  unit : Nat
  nv : Bool := false
  core : Nat := 0xFF
  queue : Option Nat := none
  slot : Nat := 0
  index : Nat := 0
  repeats : Nat := 0
  addr : Option (Nat × Bool) := none
  time : Nat := 0
  read : Bool := false
  deriving DecidableEq, Repr

/-- A ratchet entry (R134). -/
structure Ratchet where
  rung : Nat := 0
  count : Nat := 0
  deriving DecidableEq, Repr

/-- Who waits for a translation of a host page (R184). -/
inductive AtsWho
  | task (id core : Nat)
  | ahead (task : Nat)
  | fetch (q : Nat)
  | record (q : Nat)
  | boundary
  deriving DecidableEq, Repr

/-- An outstanding translation request (R184). `ps` is 0 without a PASID, else the PASID plus 1. -/
structure AtsReq where
  page : Nat
  write : Bool
  ps : Nat
  who : AtsWho
  early : Bool := false
  deriving DecidableEq, Repr

/-- A step boundary whose record is still to be written (R297, R300). -/
structure Boundary where
  addr : Nat
  bytes : List Byte
  gate : Option Nat
  verdict : Option Nat
  msg : Bool
  deriving DecidableEq, Repr

/-- A granule of the basted range (R306): its parity P, whether a speculative write has reached its other copy in this step,
and whether one has since STEP_CLOSE was handed off (R312). D of R306 is `dirty` or `late`. -/
structure Granule where
  parity : Bool := false
  dirty : Bool := false
  late : Bool := false
  deriving DecidableEq, Repr

/-! ### Garjor (R341-R376) -/

/-- A sequenced flit that no ACK covers yet (R349). `tag` names the collective that sent it, `part` the
partition of its packet. -/
structure Sent where
  seq : Nat
  ctrl : Option Ctrl
  vc : Nat
  last : Bool
  payload : List Byte
  tag : Option (Nat × Nat)
  part : Nat := 0
  deriving DecidableEq, Repr

/-- A packet in a transmit queue: the payloads of its flits still to go (R346, R352), the first `sent` of which went
already before a training (R376). -/
structure Pkt where
  vc : Nat
  part : Nat
  tag : Option (Nat × Nat)
  flits : List (List Byte)
  begun : Bool := false
  sent : Nat := 0
  deriving DecidableEq, Repr

/-- A Garjor port beside its registers. -/
structure Port where
  /-- transmit side: next SEQ, flits not acknowledged (oldest first), how many of the newest are to be resent, the SEQ that the
  last NAK named and how often it has been replayed without progress (R349) -/
  txSeq : Nat := 0
  replay : List Sent := []
  back : Nat := 0
  nakSeq : Nat := 0
  nakCount : Nat := 0
  /-- receive side: SEQ expected, a flit has been accepted, a NAK is out, a NAK is to be sent -/
  rxSeq : Nat := 0
  rxAny : Bool := false
  nakOut : Bool := false
  nakDue : Bool := false
  /-- credits held: by VC, and of the pool (R351) -/
  credits : List Nat := List.replicate 8 32
  pool : Nat := 1280
  /-- flits received of packets whose last flit has not come, by VC -/
  rx : Tbl Nat (List (List Byte)) := []
  /-- packets and CTRL flits that wait for the port -/
  txq : List Pkt := []
  ctrlq : List Ctrl := []
  /-- position in the weighted round robin, the partition of each VC's last packet (R352), flits since the last IDLE (R344) -/
  turn : Nat := 0
  lastPart : Tbl Nat Nat := []
  sinceIdle : Nat := 0
  /-- RECAL_NOW made the port due; nanoseconds since the end of the last training or recalibration, those in low-power idle left out; a
  fast retrain is going on (R363, R366, R367) -/
  due : Bool := false
  calAge : Nat := 0
  retraining : Bool := false
  /-- low-power idle is proposed and not yet accepted (R366) -/
  lpiAsked : Bool := false
  /-- training: exchanges already sent, and the taps of the transmit equaliser that the partner asked for (R342, R361) -/
  said : Nat := 0
  taps : List Nat := []
  /-- flits of `rx`, by VC, that came before the last training: their credits are not returned again (R351, R361) -/
  rxOld : Tbl Nat Nat := []
  /-- the line side: the scrambler, bits not yet in a codeword, codewords since the last marker (R343) -/
  scr : Nat := 0
  line : List Bool := []
  words : Nat := 0
  deriving DecidableEq, Repr

/-! ### Tally (R378-R413) -/

/-- A partial of one ring block: FP32 bits, integers (2^31 for the reserved code 0x8000, which no finite sum reaches) or counts, by mode; scale blocks
that have let out; contributions summed, in all and in the present stage; the rank named late (R397, R402). -/
structure Partial where
  vals : List Int := []
  esc : List Bool := []
  flagOnly : Bool := false
  total : Nat := 0
  hops : Nat := 0
  late : Option Nat := none
  deriving DecidableEq, Repr

/-- First copy of a packet: stage, source, PCRC, arrival, FROM_SHADOW (R406). -/
structure FirstCopy where
  stage : Nat
  src : Nat
  pcrc : Nat
  time : Nat
  shadow : Bool
  deriving DecidableEq, Repr

/-- What a rank holds of one ring block of a collective. -/
structure Blk where
  /-- the operand elements as FP32 bits (for ALLGATHER the elements' bits), and the agreed scales, once read -/
  own : Option (List Nat) := none
  scales : List Nat := []
  /-- signs of SIGN1 (R394), local values of a pre-pass (R387, R388) -/
  given : List Int := []
  /-- next stage of R382, the line's result so far, partials that have arrived by stage -/
  stage : Nat := 0
  line : Option Partial := none
  gone : Bool := false
  inc : Tbl Nat Partial := []
  firsts : List FirstCopy := []
  /-- this rank has what it writes of the block, and has written it; the members whose parts of a block of an ALLGATHER in GROUP PEN it has
  written -/
  written : Bool := false
  parts : List Nat := []
  /-- sum of squares of the result that this rank holds, FP32 bits (R412) -/
  q : Option Nat := none
  deriving DecidableEq, Repr

/-- What a rank gives to STEP_CLOSE (R407). -/
structure CloseInfo where
  nonfinite : Bool := false
  skew : Bool := false
  gradNonfinite : Bool := false
  missing : Bool := false
  aborted : Bool := false
  escalated : Bool := false
  noiseInvalid : Bool := false
  l : Nat := 0
  q : Nat := 0
  /-- the rank named late on the way of this part (R402); not part of the payload -/
  late : Option Nat := none
  deriving DecidableEq, Repr

/-- A collective in Tally's list (R378). -/
structure Coll where
  seq : Nat
  c : Collective
  /-- mode in effect (R385) -/
  mode : Nat
  handoff : Nat
  /-- GRAD_SCALE_LOG2 in force at hand-off -/
  e : Nat
  blks : Tbl Nat Blk := []
  /-- the non-finite flag (R396) -/
  flag : Bool := false
  /-- arrival of the last packet it waited for, and the LATE field of that packet -/
  waited : Option (Nat × Option Nat) := none
  /-- STEP_CLOSE: flags sampled at hand-off, contributions by stage, the combination so far; verdict formed -/
  close : CloseInfo := {}
  closeInc : Tbl Nat CloseInfo := []
  closeFirsts : List FirstCopy := []
  closeStage : Nat := 0
  closeLine : Option CloseInfo := none
  closeGone : Bool := false
  deriving DecidableEq, Repr

/-- A packet in Tally's receive buffer with its arrival; the port, VC and flits whose credits Tally holds because its buffer was full
(R399). -/
structure RxPkt where
  bytes : List Byte
  time : Nat
  held : Option (Nat × Nat × Nat) := none
  deriving DecidableEq, Repr

/-- Tally's state for a partition beside its registers. -/
structure Tally where
  list : List Coll := []
  rx : List RxPkt := []
  /-- noise collectives of the step that have ended: sequence number, group, L and the block sums in order (R412) -/
  noise : List (Nat × Nat × Nat × List Nat) := []
  noiseBad : Bool := false
  /-- EMA_RESET was written (R418) -/
  emaReset : Bool := false
  /-- the layout that waits for the boundary (R410) -/
  layout : Option (Nat × Nat) := none
  deriving DecidableEq, Repr

/-- A partition, beside its registers and its queues. -/
structure Part where
  tlb : List Xlat := []
  /-- cached host translations by PASID key (R184) -/
  ats : List (Nat × Xlat) := []
  atsReqs : List AtsReq := []
  /-- records that wait for a translation of their host page, oldest first -/
  boundary : List Boundary := []
  /-- speculative writes of the step, and those since STEP_CLOSE was handed off: first address and address after the last
  (R311, R312) -/
  specs : List (Nat × Nat) := []
  lateSpecs : List (Nat × Nat) := []
  /-- STEP_CLOSE has been handed off and its verdict is awaited (R297) -/
  closing : Bool := false
  invRange : Option (Nat × Nat) := none
  /-- work of R470 or R482 in progress: no dispatch, doorbells refused -/
  draining : Bool := false
  faultPending : Option FaultRec := none
  /-- an abort waits for the end of a boundary whose verdict has come (R298) -/
  abortWaits : Bool := false
  /-- CLEAR waits for RECLAIM or for the end of the fault's handling (R484) -/
  clearDue : Bool := false
  /-- training state (R293-R310, R134-R142) -/
  ratchet : Tbl Nat Ratchet := []
  /-- tensors that let out in the step, in a task that completed (R135) -/
  stepOuts : List Nat := []
  stepReached : Tbl Nat Nat := []
  stepPasses : Nat := 0
  stepLetouts : Nat := 0
  stats : Tbl Nat TensorCounts := []
  flagSkew : Bool := false
  flagMissing : Bool := false
  flagAborted : Bool := false
  flagEscalated : Bool := false
  flagGrad : Bool := false
  tags : Tbl Nat Nat := []
  baste : Tbl Nat Granule := []
  tally : Tally := {}
  deriving DecidableEq, Repr

/-- Requests of one Drover (R281): (core, ctx, task, descriptor bytes), oldest first; the first is served when active. -/
structure DieState where
  drover : List (Nat × Nat × Nat × List Byte) := []
  /-- cores whose waiting request overlaps another one (R281) -/
  clash : List Nat := []
  active : Bool := false
  deriving DecidableEq, Repr

/-- Corrected errors of one unit within the last hour, and the time of its last alarm (R491). -/
structure CeWindow where
  times : List Nat := []
  alarm : Option Nat := none
  /-- the unit's patrol scrub takes forced slots (R490) -/
  forced : Bool := false
  deriving DecidableEq, Repr

/-- Causes that fold the whole module (R423, R442, R446). -/
inductive FoldCause | capBelow | supply | thermal
  deriving DecidableEq, Repr

/-- The power controller beside its registers (R428-R450). -/
structure PowerCtl where
  causes : List FoldCause := []
  /-- the ramped limit of R431, in tenths of a watt -/
  rampDw : Nat := 15000
  /-- the target of R439, in tenths of a watt -/
  targetDw : Nat := 14900
  /-- the limit has stayed below the fold power, or 20 W above it, since the last tick (R442, R444) -/
  below : Bool := false
  above : Bool := false
  /-- thermal ceilings by die (15 where unlisted) and ticks spent 2 degrees below target (R446) -/
  ceilT : Tbl Nat Nat := []
  coolTicks : Tbl Nat Nat := []
  /-- halvings of the duty of a die at or above 105 degrees (R446) -/
  hotHalf : Tbl Nat Nat := []
  /-- rail ceilings by die (15 where unlisted) and ticks without excess (R436) -/
  ceilR : Tbl Nat Nat := []
  railTicks : Tbl Nat Nat := []
  /-- learned figures by partition, phase and operating point: power in tenths of a watt, progress in 1/1,024 (R437) -/
  learned : Tbl (Nat × Nat × Nat) (Nat × Nat) := []
  /-- ticks of a phase without a sample one point below its target (R438) -/
  unsampled : Tbl (Nat × Nat) Nat := []
  lastReq : Tbl Nat Nat := []
  /-- since the last control tick: dies that have moved, and the phases of the tasks that each die has run (R437); the tick's time -/
  moved : List Nat := []
  phases : Tbl Nat (List Nat) := []
  /-- queues of the tasks that cores have begun since the last control tick (R450) -/
  ran : List (Nat × Nat) := []
  tickAt : Nat := 0
  /-- PWR_PART by partition and PWR_IRQ as the last control tick took them (R5, R452) -/
  partCtl : Tbl Nat Nat := []
  irq : Nat := 0
  /-- dies that the effective limit lowered at the last tick (R447) -/
  lowered : List Nat := []
  /-- dies without a task for 100 microseconds (R436) -/
  idle : List Nat := []
  /-- fold-duty in force; off part of its period; pause of the shed pin (R435, R441) -/
  dutyOn : Bool := false
  offPart : Bool := false
  shedHold : Bool := false
  /-- a commanded STANDBY waits for a store or for the flash (R503, R533) -/
  standbyPending : Bool := false
  /-- STANDBY entered for a thermal or input cause (R561) -/
  standbyCause : Bool := false
  /-- THERM_TRIP_N is low (R561) -/
  tripped : Bool := false
  overvolt : Bool := false
  /-- the input has fallen below 64 V, or risen above 84 V, and is not yet back by the hysteresis of R423 -/
  inputLow : Bool := false
  inputHigh : Bool := false
  /-- an excursion below 58 V or above 84 V goes on (R423) -/
  inputLoss : Bool := false
  /-- the input was lost: code 0x6007 at the next start (R423) -/
  lostInput : Bool := false
  off : Bool := false
  /-- filtered input voltage in 2^-16 of a tenth of a volt (R433) -/
  vFilt : Nat := 0
  /-- the last 100 products of voltage and current, in milliwatts, newest first (R449) -/
  samples : List Nat := []
  /-- input energy below one microjoule, in hundredths -/
  ujRem : Nat := 0
  /-- since the last calibration (R449): input samples and their sum in milliwatts, raw estimates and their sum -/
  calN : Nat := 0
  calMw : Nat := 0
  rawN : Nat := 0
  rawMw : Nat := 0
  /-- dies in a droop event (R35) -/
  droop : List Nat := []
  i3cAddr : Option Nat := none
  /-- energy latched by the first byte of an I3C read (R434) -/
  i3cLatch : Nat := 0
  /-- the CML bit of the PMBus STATUS_WORD (R563) -/
  cml : Bool := false
  pmbAddr : Nat := 0
  /-- POS_X, POS_Y and POS_Z as sampled (R562) -/
  straps : List Nat := [0, 0, 0]
  deriving DecidableEq, Repr

/-- A signed response that waits for the store of an LMS run (R507). -/
inductive SpdmWait
  | challenge (nonce : List Byte)
  | measurements (blocks : List MeasBlock) (nonce : List Byte)
  | keyExchange (session : Nat) (exchange : List Byte)
  deriving DecidableEq, Repr

def SpdmWait.isKey : SpdmWait → Bool
  | .keyExchange _ _ => true
  | _ => false

/-- An SPDM session of a function (R505). -/
structure Session where
  f : Fn
  id : Nat
  established : Bool := false
  deriving DecidableEq, Repr

/-- An image being written to flash (R502, R503). -/
structure FlashJob where
  image : List Host.Cell
  recovery : Bool
  deriving DecidableEq, Repr

/-- The security engine beside its registers. Fuses and flash survive every reset. -/
structure Sec where
  /-- fuses: lifecycle state, SVN steps, hash of the owner key (R501, R510) -/
  fuseState : Nat := 0
  fuseSvn : Nat := 0
  fuseOwner : Option (BitVec 384) := none
  /-- the owner key of the FACTORY region, which the fused hash binds (R510) -/
  ownerKey : List Byte := []
  /-- keys destroyed by RETIRE -/
  destroyed : Bool := false
  /-- the image in flash: none is the image of manufacture, and a lost write leaves no valid one (R503) -/
  flash : Option (List Host.Cell) := none
  flashBad : Bool := false
  job : Option FlashJob := none
  /-- the image window: staged bytes, and the port that holds it (R502) -/
  stage : List Host.Cell := []
  holder : Option Fn := none
  token : List Byte := List.replicate 112 0
  evaluating : Bool := false
  /-- the command whose fuse and erase work is going on (R510) -/
  work : Option Nat := none
  workKey : List Byte := []
  /-- the running image: its first 256 bytes' digest and the compound device identifier of the Alias layer (R504) -/
  hdrDigest : BitVec 384 := 0
  cdiA : BitVec 384 := 0
  /-- the management core restarts (R488) -/
  restarting : Bool := false
  /-- end of the last stored run, next index, and responses that wait for a store (R507) -/
  lmsEnd : Nat := 0
  lmsNext : Nat := 0
  lmsStoring : Bool := false
  waiting : List (Fn × SpdmWait) := []
  sessions : List Session := []
  nextSession : Nat := 0
  /-- IDE streams: function, stream (0 link, 1-4 selective), secure -/
  ide : List (Fn × Nat × Bool) := []
  /-- REF_TIME at which the debug level falls to D0 (R518) -/
  expiry : Option Nat := none
  /-- trace ring, newest first, and records made (R523) -/
  trace : List (List Byte) := []
  traceCount : Nat := 0
  /-- test access port: instruction register and the bits shifted in -/
  tapIr : List Bool := []
  deriving DecidableEq, Repr

/-- A journal as its scan finds it (R527-R531): end of the image, end of the torn slots, last sequence number, entries by
address with mask and value. -/
structure Journal where
  next : Nat := 0
  tornEnd : Nat := 0
  seq : Nat := 0
  entries : Tbl Nat (Nat × Nat) := []
  torn : Bool := false
  damaged : Bool := false
  deriving DecidableEq, Repr

/-- A settings store in progress: target region, the bytes that it writes, and the journal that it leaves (R532). -/
structure StoreJob where
  factory : Bool
  bank : Nat
  writes : List (Nat × List Byte)
  after : Journal
  deriving DecidableEq, Repr

/-- The settings memory (R525-R532). -/
structure Nvs where
  cells : List Host.Cell := []
  /-- the staging area NVS_STAGE -/
  stage : List Byte := List.replicate 4096 0
  bank : Nat := 0
  user : Journal := {}
  factory : Journal := {}
  job : Option StoreJob := none
  /-- writes of the most-worn block by region: USER, FACTORY, LMS, FAULT_LOG; regions already reported (R526) -/
  worn : Tbl Nat Nat := []
  reported : List Nat := []
  /-- fault records due with their numbers, times of the last commit and of the hour's commits (R487) -/
  due : List (Nat × FaultRec) := []
  lastCommit : Option Nat := none
  hour : List Nat := []
  deriving DecidableEq, Repr

/-- What waits for the end of an abort (R471): a commit of a set that it affects, by the function that wrote it, or the rest of a
function reset. -/
inductive Deferred
  | cfg (f : Fn) (p : Nat)
  | baste (f : Fn) (p : Nat)
  | layout (f : Fn) (p : Nat)
  | parts (f : Fn)
  | reset (f : Fn)
  | d3hot (f : Fn)
  deriving DecidableEq, Repr

/-- The state of the module. -/
structure State where
  pending : List Instr := []
  regs : Tbl Reg DWord := []
  staged : Tbl Reg DWord := []
  mem : Mem := {}
  fns : Tbl Fn FnState := []
  cores : Tbl Nat Core := []
  dies : Tbl Nat DieState := []
  parts : Tbl Nat Part := []
  queues : Tbl (Nat × Nat) Queue := []
  tasks : List Task := []
  reqs : List Request := []
  stores : List Store := []
  nextId : Nat := 0
  log : List FaultRec := []
  logCount : Nat := 0
  /-- visible tensor statistics records (R142, R148): 64 bytes each, zeros where unlisted -/
  tstat : Tbl Nat (List Byte) := []
  /-- corrected-error windows by unit (R491) -/
  ce : Tbl Nat CeWindow := []
  ports : Tbl Nat Port := []
  power : PowerCtl := {}
  sec : Sec := {}
  nvs : Nvs := {}
  deferred : List Deferred := []
  out : List Out := []
  free : Nat := 0
  deriving DecidableEq, Repr

/-- No command stops with a fault: the block reports every fault in its own state (R486). -/
inductive Fault
  deriving DecidableEq, Repr

/-- Why a command has no meaning. -/
inductive Refusal
  /-- Raised by the dispatcher for a command whose meaning is not written: safe. -/
  | notModelled (mnemonic : String)
  deriving DecidableEq, Repr

/-- The state right after reset, before a start-up command: every register at its reset value, nothing listed. -/
def State.reset : State := {}

end Sys2Proof.Machine
end

