-- ==== Sys2Proof/Machine/Ops.lean ====
section
/-! DEFINITION. The named operations over the state: single updates and their lists, memory and poison (R15-R23, R478),
address translation (R180-R184), interrupts (R462), the fault log (R486), completion records (R210), task and partition
faults (R186, R482). -/

namespace Sys2Proof

def Fn.idx : Fn → Nat
  | .pf0 => 0
  | .pf1 => 1
def Fn.ofIdx (n : Nat) : Fn := if n = 0 then .pf0 else .pf1
def Fn.other : Fn → Fn
  | .pf0 => .pf1
  | .pf1 => .pf0

end Sys2Proof

namespace Sys2Proof.Machine

/-! ### Memory -/

/-- The newest whole-range contents that cover an address. -/
def Mem.cover (m : Mem) (a : Nat) : Option (Option Nat) :=
  (m.undef.find? fun r => decide (r.1 ≤ a ∧ a < r.2.1)).map (·.2.2)

/-- What an unlisted address reads as: a free byte where its contents are undefined (R23), else zero (R537). -/
def Mem.dflt (m : Mem) (a : Nat) : Byte :=
  match m.cover a with
  | some (some n) => Config.freeByte n a
  | _ => 0

/-- Every byte of an undefined range is listed once it is written. -/
def Mem.keepZero (m : Mem) (a : Nat) : Bool :=
  match m.cover a with
  | some (some _) => true
  | _ => false

def cellGet : List Host.Cell → Nat → Option Byte
  | [], _ => none
  | (k, b) :: r, a => if k = a then some b else if a < k then none else cellGet r a

/-- The sorted list with the byte of one address set, or with its entry removed. -/
def cellSet : List Host.Cell → Nat → Option Byte → List Host.Cell
  | [], a, some b => [(a, b)]
  | [], _, none => []
  | (k, v) :: r, a, b =>
    if a < k then (match b with
      | some x => (a, x) :: (k, v) :: r
      | none => (k, v) :: r)
    else if k = a then (match b with
      | some x => (a, x) :: r
      | none => r)
    else (k, v) :: cellSet r a b

def Mem.get (m : Mem) (a : Nat) : Byte := (cellGet m.cells a).getD (m.dflt a)

def Mem.set (m : Mem) (a : Nat) (b : Byte) : Mem :=
  { m with cells := cellSet m.cells a (if b = 0 && !m.keepZero a then none else some b) }

/-- Whole-range contents: undefined of a draw, or zero. Ranges that lie within the new one are gone, and zeros are listed only where an
older range would still cover them. -/
def Mem.fillRange (m : Mem) (lo hi : Nat) (v : Option Nat) : Mem :=
  let rest := m.undef.filter fun r => decide (¬ (lo ≤ r.1 ∧ r.2.1 ≤ hi))
  { m with cells := m.cells.filter (fun c => decide (c.1 < lo ∨ hi ≤ c.1)),
           undef := if v.isNone && rest.all (fun r => decide (r.2.1 ≤ lo ∨ hi ≤ r.1)) then rest else (lo, hi, v) :: rest }

def natInsert : List Nat → Nat → List Nat
  | [], a => [a]
  | k :: r, a => if a < k then a :: k :: r else if k = a then k :: r else k :: natInsert r a

def Mem.isPoison (m : Mem) (a : Nat) : Bool := m.poison.contains (a / 64)

/-- The canonical form: addresses strictly rising, a zero listed only where the unlisted byte is not zero by rule, poison
marks strictly rising. -/
abbrev Mem.wf (m : Mem) : Prop :=
  m.cells.Pairwise (fun x y => x.1 < y.1) ∧ (∀ c ∈ m.cells, c.2 ≠ 0 ∨ m.keepZero c.1 = true) ∧
    m.poison.Pairwise (· < ·)

/-! ### Reading the state -/

namespace State

def reg (s : State) (r : Reg) : DWord := tget s.regs r r.name.reset
/-- A field of a register instance, as a number. -/
def get (s : State) (f : Fld) (i j : Nat := 0) : Nat := ((s.reg ⟨f.reg, i, j⟩).toNat / 2 ^ f.lo) % 2 ^ f.w
def flag (s : State) (f : Fld) (i j : Nat := 0) : Bool := s.get f i j == 1
/-- The staged value of a shadowed register (R7): the committed one until a write. -/
def stagedReg (s : State) (r : Reg) : DWord := tget s.staged r (s.reg r)
def stagedGet (s : State) (f : Fld) (i j : Nat := 0) : Nat :=
  ((s.stagedReg ⟨f.reg, i, j⟩).toNat / 2 ^ f.lo) % 2 ^ f.w
def fn (s : State) (f : Fn) : FnState := tget s.fns f {}
def core (s : State) (c : Nat) : Core := tget s.cores c {}
def die (s : State) (d : Nat) : DieState := tget s.dies d {}
def part (s : State) (p : Nat) : Part := tget s.parts p {}
def queue (s : State) (p q : Nat) : Queue := tget s.queues (p, q) {}
def port (s : State) (g : Nat) : Port := tget s.ports g {}
def task (s : State) (id : Nat) : Option Task := s.tasks.find? (fun t => t.id == id)

end State

def Core.ctx (c : Core) (x : Nat) : Ctx := tget c.ctxs x {}
/-- The stream that an instruction finds in a slot: one bound early for a later task is not yet there (R177). -/
def Core.stream (c : Core) (x n : Nat) : Option Stream := (c.streams.find? (fun e => e.1 == (x, n) && !e.2.early)).map (·.2)

/-! ### Updates -/

/-- A single change of the state. No update touches the command queue. -/
inductive Upd
  | reg (r : Reg) (v : DWord)
  | fld (f : Fld) (i j v : Nat)
  | add (r : Reg) (n : Nat)
  | stage (r : Reg) (v : DWord)
  | resetReg (r : Reg)
  | unstage (r : Reg)
  | cell (a : Nat) (b : Byte)
  | poison (g : Nat) (on : Bool)
  | reported (g : Nat)
  | fill (lo hi : Nat) (undefined : Bool)
  | clearMem
  | hostCell (f : Fn) (a : Nat) (b : Byte)
  | fn (f : Fn) (g : FnState → FnState)
  | core (c : Nat) (g : Core → Core)
  | die (d : Nat) (g : DieState → DieState)
  | part (p : Nat) (g : Part → Part)
  | queue (p q : Nat) (g : Queue → Queue)
  | tasks (g : List Task → List Task)
  | reqs (g : List Request → List Request)
  | stores (g : List Store → List Store)
  | log (g : List FaultRec → List FaultRec)
  | logged
  | tstat (g : Tbl Nat (List Byte) → Tbl Nat (List Byte))
  | ce (g : Tbl Nat CeWindow → Tbl Nat CeWindow)
  | port (g : Nat) (h : Port → Port)
  | power (g : PowerCtl → PowerCtl)
  | sec (g : Sec → Sec)
  | nvs (g : Nvs → Nvs)
  | deferred (g : List Deferred → List Deferred)
  | newId (n : Nat)
  | emit (o : Out)
  | draw (n : Nat)
  | restart
  | resetBlocks

/-- What OFF and module reset leave of a function (R559): the host's own memory, and the level of the port's reset pin. -/
def FnState.kept (x : FnState) : FnState := { host := x.host, perst := x.perst }

/-- What OFF and module reset leave of the security engine: fuses, flash and the reservations of R507. -/
def Sec.kept (x : Sec) : Sec :=
  { fuseState := x.fuseState, fuseSvn := x.fuseSvn, fuseOwner := x.fuseOwner, ownerKey := x.ownerKey, destroyed := x.destroyed,
    flash := x.flash, flashBad := x.flashBad, lmsEnd := x.lmsEnd, lmsNext := x.lmsEnd }

/-- What OFF and module reset leave of the settings memory (R425): its cells and their wear. -/
def Nvs.kept (x : Nvs) : Nvs := { cells := x.cells, worn := x.worn, reported := x.reported }

/-- The register belongs to a block that answers in STANDBY (R472), so WAKE keeps it (R539); the level of R518 and the beat counters of
R31 are kept too. -/
def RegName.kept (r : RegName) : Bool :=
  decide (r.spec.base < 0x500000) || decide (0x800000 ≤ r.spec.base ∧ r.spec.base < 0xA00000) || r == .dbgLevel || r == .dieBeatCount

/-- A field of a 64-bit word replaced. -/
def setBits (v : DWord) (lo w x : Nat) : DWord :=
  BitVec.ofNat 64 (v.toNat - ((v.toNat / 2 ^ lo) % 2 ^ w) * 2 ^ lo + (x % 2 ^ w) * 2 ^ lo)

/-- The effect of one update. A register keeps its reserved bits and its write-only fields at 0 (R1, R3). -/
def Upd.apply (u : Upd) (s : State) : State :=
  match u with
  | .reg r v => { s with regs := tset s.regs r (v &&& r.name.held) }
  | .fld f i j v =>
    let r : Reg := ⟨f.reg, i, j⟩
    { s with regs := tset s.regs r (setBits (s.reg r) f.lo f.w v &&& r.name.held) }
  | .add r n => { s with regs := tset s.regs r (BitVec.ofNat 64 ((s.reg r).toNat + n) &&& r.name.held) }
  | .stage r v => { s with staged := tset s.staged r (v &&& r.name.held) }
  | .resetReg r => { s with regs := tdel s.regs r }
  | .unstage r => { s with staged := tdel s.staged r }
  | .cell a b => { s with mem := s.mem.set a b }
  | .poison g on =>
    if on then { s with mem := { s.mem with poison := natInsert s.mem.poison g } }
    else { s with mem := { s.mem with poison := s.mem.poison.filter (fun x => decide (x ≠ g)), reported := s.mem.reported.filter (fun x => decide (x ≠ g)) } }
  | .reported g => { s with mem := { s.mem with reported := g :: s.mem.reported } }
  | .fill lo hi u => { s with mem := s.mem.fillRange lo hi (if u then some s.free else none), free := s.free + 1 }
  | .clearMem => { s with mem := {} }
  | .hostCell f a b => { s with fns := tset s.fns f { s.fn f with host := cellSet (s.fn f).host a (some b) } }
  | .fn f g => { s with fns := tset s.fns f (g (s.fn f)) }
  | .core c g => { s with cores := tset s.cores c (g (s.core c)) }
  | .die d g => { s with dies := tset s.dies d (g (s.die d)) }
  | .part p g => { s with parts := tset s.parts p (g (s.part p)) }
  | .queue p q g => { s with queues := tset s.queues (p, q) (g (s.queue p q)) }
  | .tasks g => { s with tasks := g s.tasks }
  | .reqs g => { s with reqs := g s.reqs }
  | .stores g => { s with stores := g s.stores }
  | .log g => { s with log := g s.log }
  | .logged => { s with logCount := s.logCount + 1 }
  | .tstat g => { s with tstat := g s.tstat }
  | .ce g => { s with ce := g s.ce }
  | .port g h => { s with ports := tset s.ports g (h (s.port g)) }
  | .power g => { s with power := g s.power }
  | .sec g => { s with sec := g s.sec }
  | .nvs g => { s with nvs := g s.nvs }
  | .deferred g => { s with deferred := g s.deferred }
  | .newId n => { s with nextId := s.nextId + n }
  | .emit o => { s with out := s.out ++ [o] }
  | .draw n => { s with free := s.free + n }
  | .restart =>
    { pending := s.pending, out := s.out, free := s.free, nextId := s.nextId
      regs := s.regs.filter (fun e => e.1.name == .nvsFlogCount || e.1.name == .nvsWear)
      fns := s.fns.map (fun e => (e.1, e.2.kept)), sec := s.sec.kept, nvs := s.nvs.kept }
  | .resetBlocks => { s with regs := s.regs.filter (fun e => e.1.name.kept), staged := s.staged.filter (fun e => e.1.name.kept) }

/-- The effect of a list of updates, first one first. -/
def applyAll : List Upd → State → State
  | [], s => s
  | u :: r, s => applyAll r (u.apply s)

/-- What a command does: the updates it makes in a state. -/
abbrev Act := State → List Upd

def run (a : Act) (s : State) : State := applyAll (a s) s

namespace Act

def skip : Act := fun _ => []
def of (us : List Upd) : Act := fun _ => us
/-- First a, then b in the state that a leaves. -/
def seq (a b : Act) : Act := fun s =>
  let us := a s
  us ++ b (applyAll us s)
def all : List Act → Act
  | [] => skip
  | a :: r => a.seq (all r)
def each {α : Type} (xs : List α) (f : α → Act) : Act := all (xs.map f)
/-- An action chosen by the state that it finds. -/
def look (f : State → Act) : Act := fun s => f s s
def when (c : State → Bool) (a : Act) : Act := fun s => if c s then a s else []
def set (f : Fld) (i j v : Nat) : Act := fun _ => [.fld f i j v]
def count (r : RegName) (i j n : Nat) : Act := fun _ => [.add ⟨r, i, j⟩ n]

end Act

/-- A command answers the state that its action leaves. -/
def perform (a : Act) (s : State) : Host.Outcome State Fault Refusal := .next (run a s)

/-! ### Places and owners (R14, R26) -/

def dieOfCore (c : Nat) : Nat := c / 36

namespace State

/-- The committed layout and its number of partitions (R26, R465). -/
def layout (s : State) : Nat := s.get F.hostPartCfgLayout
def nParts (s : State) : Nat := if s.layout = 0 then 1 else if s.layout = 1 then 2 else 4
def partSize (s : State) : Nat := 4 / s.nParts
def partExists (s : State) (p : Nat) : Bool := decide (p < s.nParts)
def partOfDie (s : State) (d : Nat) : Nat := d / s.partSize
def partOfCore (s : State) (c : Nat) : Nat := s.partOfDie (dieOfCore c)
def diesOf (s : State) (p : Nat) : List Nat := (List.range 4).filter (fun d => s.partOfDie d == p)
def coresOf (s : State) (p : Nat) : List Nat := (List.range 144).filter (fun c => s.partOfCore c == p)
/-- The owner of a partition and the management owner (R465, R467). -/
def owner (s : State) (p : Nat) : Fn := Fn.ofIdx (s.get F.hostPartCfgOwner / 2 ^ p % 2)
def mgmt (s : State) : Fn := Fn.ofIdx (s.get F.hostMgmtOwner)
def owns (s : State) (f : Fn) (p : Nat) : Bool := s.partExists p && s.owner p == f
def partsOf (s : State) (f : Fn) : List Nat := (List.range 4).filter (s.owns f)
/-- The partition that holds gate g and tensor record i (R206, R139). -/
def partOfGate (s : State) (g : Nat) : Nat := g / (4096 / s.nParts)
def time (s : State) : Nat := s.get F.genRefTimeTime
/-- Contexts of each core of a partition (R213, R228). -/
def ctxCount (s : State) (p : Nat) : Nat :=
  let v := s.get F.hostExecCtxCount p
  if v = 1 then 2 else if v = 2 then 4 else 1

/-- A partition works on tasks: some of its tasks is queued or running (R25, R190). -/
def queueTasks (s : State) (p q : Nat) : Bool :=
  (s.flag F.hostQCtrlEn p q && s.get F.hostQHeadHead p q != s.get F.hostQTailTail p q) ||
    s.tasks.any (fun t => t.p == p && t.q == q)
def tasksBusy (s : State) (p : Nat) : Bool :=
  (List.range 64).any (s.queueTasks p) || s.tasks.any (fun t => t.p == p)

/-- The cores and queues of a partition may work: it is ACTIVE or GRAZE (R453), the module has main power, and neither the
off part of fold-duty (R441) nor the shed pin (R435) pauses it. -/
def powerOk (s : State) (p : Nat) : Bool :=
  decide (s.get ⟨.pwrState, 4 * p, 3⟩ ≤ 1) && s.get F.pwrStateModule != 4 && !s.power.off &&
    !s.power.offPart && !s.power.shedHold
/-- The off part of the duty of a die's own cores (R446): a half of the first control tick after the die reached 105 degrees, and twice as
short an on part in each further tick (log 49). -/
def hotPaused (s : State) (d : Nat) : Bool :=
  match tget s.power.hotHalf d 0 with
  | 0 => false
  | n + 1 => decide (100000 ≤ (s.time - s.power.tickAt) * 2 ^ n)
/-- The core may issue, admit and request (R435, R441, R442, R446). -/
def coreOk (s : State) (c : Nat) : Bool := s.powerOk (s.partOfCore c) && !s.hotPaused (dieOfCore c)
/-- Visible statistics record i (R142). -/
def tstatRec (s : State) (i : Nat) : List Byte := tget s.tstat i (List.replicate 64 0)

end State

/-- The state of partition p in PWR_STATE (R453). -/
def pwrPartFld (p : Nat) : Fld := ⟨.pwrState, 4 * p, 3⟩
def partPower (s : State) (p : Nat) : Nat := s.get (pwrPartFld p)
def folded (s : State) (p : Nat) : Bool := partPower s p == 2
/-- Every partition is folded (R425). -/
def allFolded (s : State) : Bool := (List.range s.nParts).all (folded s)

/-! ### Locations: physical addresses below 2^52, host addresses of function f from 2^60 × (f + 1) -/

def hostLoc (f : Fn) (a : Nat) : Nat := 2 ^ 60 * (f.idx + 1) + a % 2 ^ 55
def isHostLoc (l : Nat) : Bool := decide (2 ^ 60 ≤ l)
def hostFn (l : Nat) : Fn := if l < 2 ^ 61 then .pf0 else .pf1
def hostAddr (l : Nat) : Nat := l % 2 ^ 60

/-- The memory that holds a physical address (R15-R17). -/
inductive Place | tier1 (d : Nat) | tier2 (d : Nat) | buffer (d : Nat) | localMem (c : Nat) | reserved
  deriving DecidableEq, Repr

def onChipBase (d : Nat) : Nat := 0xF0000000000 + d * 0x10000000
def localBase (c : Nat) : Nat := onChipBase (c / 36) + 0x8000000 + (c % 36) * 0x200000
def bufferBase (d : Nat) : Nat := onChipBase d

def placeOf (a : Nat) : Place :=
  if a < 0x10000000000 then .tier1 (a / 0x4000000000)
  else if a < 0x20000000000 then .tier2 ((a - 0x10000000000) / 0x4000000000)
  else if a < 0xF0000000000 then .reserved
  else if a < 0xF0040000000 then
    let o := a - 0xF0000000000
    let d := o / 0x10000000
    let r := o % 0x10000000
    if r < 0x4000000 then .buffer d
    else if r < 0x8000000 then .reserved
    else if r < 0xC800000 then .localMem (36 * d + (r - 0x8000000) / 0x200000)
    else .reserved
  else .reserved

def Place.die : Place → Option Nat
  | .tier1 d | .tier2 d | .buffer d => some d
  | .localMem c => some (c / 36)
  | .reserved => none

/-- The fault code of a poisoned read from a memory (R479). -/
def Place.poisonCode : Place → Nat
  | .localMem _ => 0x1001
  | .buffer _ => 0x1002
  | .tier1 _ => 0x1004
  | _ => 0x1005

namespace State

/-- Staging area of a core: its size from MEM_STAGE_p (R150, R193). -/
def stageSize (s : State) (p : Nat) : Nat := 0x10000 * 2 ^ s.get F.memStageSize p
def stageStart (s : State) (c : Nat) : Nat := 0x200000 - s.stageSize (s.partOfCore c)
def inStage (s : State) (a : Nat) : Bool :=
  match placeOf a with
  | .localMem c => decide (s.stageStart c ≤ a - localBase c)
  | _ => false

/-- A physical access of partition p: none where it is allowed, else the fault code (R19, R150). -/
def physFault (s : State) (p a : Nat) : Option Nat :=
  match (placeOf a).die with
  | none => some 0x2006
  | some d => if s.partOfDie d ≠ p then some 0x2006 else if s.inStage a then some 0x2007 else none

/-- The stack or channel that serves a tier address, with the die it belongs to (R20, R21). -/
def serving (s : State) (a : Nat) : Option (Bool × Nat × Nat) :=
  let sel := fun (t2 : Bool) (o : Nat) (d : Nat) =>
    if t2 then (t2, d, (o / 2 ^ 11 % 4) ^^^ (o / 2 ^ 19 % 4)) else (t2, d, (o / 2 ^ 11 % 8) ^^^ (o / 2 ^ 19 % 8))
  let go := fun (t2 : Bool) (d o : Nat) =>
    let p := s.partOfDie d
    let mode := if t2 then s.get F.memMapT2Mode p else s.get F.memMapT1Mode p
    if mode = 0 then sel t2 (o % 0x4000000000) d
    else
      let n := s.partSize
      let d0 := p * n
      let b := o - d0 * 0x4000000000
      let k := if n = 2 then (b / 2 ^ 14 % 2) ^^^ (b / 2 ^ 22 % 2)
        else if n = 4 then (b / 2 ^ 14 % 4) ^^^ (b / 2 ^ 22 % 4) else 0
      sel t2 b (d0 + k)
  match placeOf a with
  | .tier1 d => some (go false d a)
  | .tier2 d => some (go true d (a - 0x10000000000))
  | _ => none

/-- The byte at a location. -/
def byteAt (s : State) (l : Nat) : Byte :=
  if isHostLoc l then
    (cellGet (s.fn (hostFn l)).host (hostAddr l)).getD (Config.hostByte (hostFn l).idx (hostAddr l))
  else s.mem.get l

def bytesAt (s : State) (l n : Nat) : List Byte := (List.range n).map fun k => s.byteAt (l + k)
def natAt (s : State) (l n : Nat) : Nat := natOf (s.bytesAt l n)

/-- The first poisoned byte of a physical range. -/
def poisonIn (s : State) (l n : Nat) : Option Nat :=
  if isHostLoc l then none else (List.range n).findSome? fun k => if s.mem.isPoison (l + k) then some (l + k) else none

end State

/-- Stores bytes at a location. A write that covers part of a poisoned granule is dropped; one that covers all of it
clears the mark (R478). Partial and whole are judged for the bytes of this one write. -/
def storeBytes (l : Nat) (bs : List Byte) : Act := fun s =>
  let cells := bs.zipIdx.map fun p => (l + p.2, p.1)
  if isHostLoc l then cells.map fun c => Upd.hostCell (hostFn l) (hostAddr c.1) c.2
  else
    let whole := fun g => decide (l ≤ 64 * g ∧ 64 * g + 64 ≤ l + bs.length)
    let gs := (s.mem.poison.filter whole).map fun g => Upd.poison g false
    gs ++ (cells.filter fun c => !s.mem.isPoison c.1 || whole (c.1 / 64)).map fun c => Upd.cell c.1 c.2

/-! ### Translation (R180-R184) -/

/-- The outcome of a translation: a location with the page it lies in, a fault code, or the address of a host page that has
no cached translation yet, plus 1 where the access is a write. -/
inductive XRes
  | ok (loc : Nat) (page : Xlat)
  | fault (code : Nat)
  | needAts (page : Nat)
  deriving DecidableEq, Repr

/-- One level of the tables (R181): index shift and bits, alignment of its tables, leaf page size (0: no leaf). -/
structure Level where
  shift : Nat
  bits : Nat
  align : Nat
  page : Nat
  deriving DecidableEq, Repr

def levels : List Level :=
  [⟨43, 12, 0x8000, 0⟩, ⟨30, 13, 0x10000, 0x40000000⟩, ⟨21, 9, 0x1000, 0x200000⟩, ⟨16, 5, 0x100, 0x10000⟩]

/-- A table walk from the table at `tbl` (R181, R182): the page, or the fault code. -/
def walk (s : State) (p va : Nat) : List Level → Nat → Xlat ⊕ Nat
  | [], _ => .inr 0x2003
  | l :: rest, tbl =>
    let inTier := match placeOf tbl with
      | .tier1 d | .tier2 d => s.partOfDie d == p
      | _ => false
    if !inTier || tbl % l.align ≠ 0 then .inr 0x2003
    else
      let ea := tbl + 8 * (va / 2 ^ l.shift % 2 ^ l.bits)
      match s.poisonIn ea 8 with
      | some a => .inr (placeOf a).poisonCode
      | none =>
        let e := s.natAt ea 8
        let pa := e % 2 ^ 52 / 256 * 256
        -- DESIGN CHOICE (log 53): an entry with V = 0 is judged by V alone
        if e % 2 = 0 then .inr 0x2001
        else if e / 16 % 16 ≠ 0 ∨ 2 ^ 52 ≤ e then .inr 0x2003
        else if e.testBit 1 then
          if l.page = 0 ∨ pa % l.page ≠ 0 then .inr 0x2003
          else .inl { va := va / l.page * l.page, size := l.page, loc := pa, r := e.testBit 2, w := e.testBit 3 }
        else if rest.isEmpty then .inr 0x2003
        else walk s p va rest pa

/-- A cached translation of the range, if any (R183). -/
def cached (xs : List Xlat) (va : Nat) : Option Xlat := xs.find? fun x => decide (x.va ≤ va ∧ va < x.va + x.size)

/-- The device space translation of an address: where a translation is cached, the old or the new one serves, and which
is left open (R183, log 1). -/
def devicePage (s : State) (p va : Nat) : Xlat ⊕ Nat :=
  let fresh := walk s p va levels (s.get F.memXlatRootRoot p * 0x8000)
  match cached (s.part p).tlb va with
  | some x => if .inl x = fresh then fresh else if Config.stale s.free va = true then .inl x else fresh
  | none => fresh

/-- The basted range in force: its base and size, none where SIZE_LOG2 is 0 (R306, R307). -/
def basteRange (s : State) (p : Nat) : Option (Nat × Nat) :=
  let z := s.get F.hostTrainBasteSizeSizeLog2 p
  if z = 0 then none else some (s.get F.hostTrainBasteBaseBase p * 2 ^ 21, 2 ^ z)

/-- Steering into the basted range (R308, R309): the address of the copy, none in the twin range. -/
def steer (s : State) (p a : Nat) (spec : Bool) : Option Nat :=
  match basteRange s p with
  | none => some a
  | some (b, n) =>
    if b ≤ a ∧ a < b + n then
      let par := (tget (s.part p).baste ((a - b) / 2 ^ 21) {}).parity
      some (if par ^^ spec then a + n else a)
    else if b + n ≤ a ∧ a < b + 2 * n then none
    else some a

/-- The translation of one byte address for partition p (R19, R180-R184, R191, R308, R309); `ps` is the PASID key of
the access (R475) and `spec` marks a speculative write. -/
def translate (s : State) (p ps : Nat) (va : Bool) (a0 : Nat) (write : Bool) (spec : Bool := false) : XRes :=
  let steered := if va && a0 / 2 ^ 55 % 2 == 0 then steer s p a0 spec else some a0
  match steered with
  | none => .fault 0x2008
  | some a => xlate a
where
  xlate (a : Nat) : XRes :=
    let allowed := fun (x : Xlat) => if write then x.w else x.r
    if !va then
      match s.physFault p a with
      | some c => .fault c
      | none => .ok a { va := a, size := 1, loc := a, r := true, w := true }
    else if a / 2 ^ 55 % 2 = 1 then
      if !s.flag F.memXlatCtrlAtsEn p then .fault 0x2005
      else
        let h := a % 2 ^ 55
        let need := XRes.needAts (h / 4096 * 4096 + if write then 1 else 0)
        match cached (((s.part p).ats.filter fun e => e.1 == ps).map (·.2)) h with
        | some x => if allowed x then .ok (hostLoc (s.owner p) (x.loc + (h - x.va))) x else need
        | none => need
    else if !s.flag F.memXlatCtrlEn p then .fault 0x2001
    else
      match devicePage s p a with
      | .inr c => .fault c
      | .inl x =>
        if !allowed x then .fault 0x2002
        else
          let pa := x.loc + (a - x.va)
          match s.physFault p pa with
          | some c => .fault c
          | none => .ok pa x

/-- The result of reading a range byte by byte. -/
inductive RRes
  | ok (bytes : List Byte)
  | fault (code : Nat) (addr : Nat) (va : Bool)
  | needAts (page : Nat)
  deriving DecidableEq, Repr

/-- The byte that core c sees at a location: its own unacknowledged stores come first (R173), newest first. -/
def byteSeen (s : State) (c : Nat) (l : Nat) : Byte :=
  match s.stores.find? (fun st => st.core == c && decide (st.loc ≤ l ∧ l < st.loc + st.bytes.length)) with
  | some st => st.bytes.getD (l - st.loc) 0
  | none => s.byteAt l

/-- Reads n bytes at an address of partition p as core c sees them (144 for a reader outside the cores). -/
def readRange (s : State) (p ps c : Nat) (va : Bool) (a : Nat) : Nat → RRes
  | 0 => .ok []
  | n + 1 =>
    match translate s p ps va a false with
    | .fault code => .fault code a va
    | .needAts pg => .needAts pg
    | .ok l _ =>
      match s.poisonIn l 1 with
      | some x => .fault (placeOf x).poisonCode x false
      | none =>
        match readRange s p ps c va (a + 1) n with
        | .ok r => .ok (byteSeen s c l :: r)
        | r => r

/-- The location of a write of n bytes, cut into runs of consecutive locations. -/
def writeRange (s : State) (p ps : Nat) (va : Bool) (a : Nat) (spec : Bool := false) :
    List Byte → (List (Nat × List Byte)) ⊕ (Nat ⊕ Nat)
  | [] => .inl []
  | b :: r =>
    match translate s p ps va a true spec with
    | .fault code => .inr (.inl code)
    | .needAts pg => .inr (.inr pg)
    | .ok l _ =>
      match writeRange s p ps va (a + 1) spec r with
      | .inl ((l', bs) :: rest) =>
        if l' = l + 1 ∧ l' % 256 ≠ 0 then .inl ((l, b :: bs) :: rest) else .inl ((l, [b]) :: (l', bs) :: rest)
      | .inl [] => .inl [(l, [b])]
      | .inr e => .inr e

/-! ### Interrupts (R212, R462) -/

/-- Sends vector v of function f: pending where the vector is masked, nothing where MSI-X is disabled. -/
def sendMsix (f : Fn) (v : Nat) : Act := fun s =>
  let x := s.fn f
  if !x.msixEnable then []
  else
    match tget x.msix v (0, 0, true) with
    | (_, _, true) => [.fn f fun y => { y with pba := natInsert y.pba v }]
    | (a, d, false) => [.emit (.msix f v a d)]

/-- Sets a bit of FLT_STATUS and sends FLT_IRQ to the management owner (R492, R495). -/
def fltStatus (f : Fld) : Act := fun s =>
  Act.all [Act.set f 0 0 1, Act.when (fun s => s.flag F.fltIrqEn) (Act.look fun s => sendMsix s.mgmt (s.get F.fltIrqVector))] s

/-! ### The fault log (R480, R486, R492) -/

/-- Scope of a code that is not raised in a NON_REPLAYABLE task (R480): 0 NONE, 1 TASK, 2 PARTITION, 3 MODULE. -/
def codeScope (code : Nat) : Nat :=
  if code ∈ [0x1007, 0x1008, 0x3018, 0x5002, 0x5003, 0x5005, 0x5006, 0x5007] then 2
  else if code ∈ [0x6004, 0x6007, 0x6008] then 3
  else if code ∈ [0x1001, 0x1002, 0x1003, 0x1004, 0x1005, 0x1006, 0x1101] then 1
  else if code / 0x1000 = 2 ∨ code / 0x1000 = 3 then 1
  else 0

/-- Whether two occurrences coalesce (R486). -/
def FaultRec.same (a b : FaultRec) : Bool :=
  a.code == b.code && a.part == b.part && a.unit == b.unit && a.core == b.core && a.queue == b.queue && a.slot == b.slot &&
    a.addr == b.addr

/-- The log commits copies of these records to the settings memory (R487). -/
def FaultRec.committed (r : FaultRec) : Bool := r.scope == 2 || r.scope == 3 || decide (6 ≤ r.code / 0x1000 ∧ r.code / 0x1000 ≤ 8)

/-- Puts an occurrence with its time into the log, with its notices (R486, R492). The newest record stands first in `log`. -/
def logRec (r : FaultRec) : Act := fun s =>
  match s.log with
  | n :: _ =>
    if n.same r && decide (r.time - n.time ≤ 1000000000 ∧ n.time - r.time ≤ 1000000000) then
      [.log fun l => match l with
        | h :: t => { h with repeats := min (h.repeats + 1) 0xFFFFFFFF } :: t
        | [] => []]
    else fresh r s
  | [] => fresh r s
where
  fresh (r : FaultRec) : Act := fun s =>
    let lost := decide (4096 ≤ s.log.length) && ((s.log.getLast?).any fun x => !x.read)
    Act.all [
      fun _ => [.log fun l => (r :: l).take 4096, .logged, .add ⟨.fltLogCount, 0, 0⟩ 1],
      if r.committed then Act.of [.nvs fun x => { x with due := x.due ++ [(s.logCount, r)] }] else Act.skip,
      Act.when (fun _ => lost) (Act.count .fltLogLost 0 0 1),
      Act.when (fun _ => r.scope == 0) (fltStatus F.fltStatusNotice),
      Act.when (fun _ => r.scope == 3) (fltStatus F.fltStatusModuleFault),
      Act.when (fun _ => r.code == 0x1010) (fltStatus F.fltStatusCeAlarm),
      Act.when (fun _ => r.code == 0x1030) (fltStatus F.fltStatusMgmtRestart),
      match r.scope == 0 && r.code / 0x1000 == 5, r.part with
      | true, some p => Act.all [Act.set F.fltPartStatusNotice p 0 1,
          Act.when (fun s => s.flag F.fltPartIrqEn p) (Act.look fun s => sendMsix (s.owner p) (s.get F.fltPartIrqVector p))]
      | _, _ => Act.skip] s

/-- An occurrence at the present time. -/
def logFault (r : FaultRec) : Act := fun s => logRec { r with time := s.time } s

/-- A fault of scope NONE or MODULE of a unit: 0-3 a die, 4 the hub. -/
def logUnit (code unit slot : Nat) (part : Option Nat) (addr : Option (Nat × Bool)) : Act :=
  logFault { code := code, scope := codeScope code, part := part, unit := unit, slot := slot, addr := addr }

/-! ### Poison (R478) -/

/-- Marks the granule of a physical address as poisoned and counts it (R478, R496). -/
def poisonGranule (a : Nat) : Act := fun s =>
  if s.mem.isPoison a then []
  else Act.all [fun _ => [.poison (a / 64) true], Act.count .fltPoisoned 0 0 1, fltStatus F.fltStatusPoisonNew] s

/-! ### Completion records (R210-R212) -/

def ringLog2 (s : State) (p q : Nat) : Nat :=
  let v := s.get F.hostQCtrlSizeLog2 p q
  if 4 ≤ v ∧ v ≤ 16 then v else 4
def ringSize (s : State) (p q : Nat) : Nat := 2 ^ ringLog2 s p q

/-- The 32 bytes of a record at write index t of a ring of n records (R211). -/
def CplRecord.bytes (r : CplRecord) (p q t n : Nat) : List Byte :=
  let lap := if t / n % 2 = 0 then 1 else 0
  bytesOf 4 r.index ++ bytesOf 4 (q + 64 * p + 256 * r.status + 2 ^ 15 * lap + 2 ^ 16 * r.code) ++ bytesOf 8 r.endTime ++
    bytesOf 8 r.startTime ++ bytesOf 4 (r.restarts % 2 ^ 16) ++ bytesOf 4 r.letouts

/-- Records held while the ring has no space (R210). -/
def cplFree (s : State) (p q : Nat) : Bool :=
  decide ((s.get F.hostQCplTailCplTail p q + 2 ^ 32 - s.get F.hostQCplHeadCplHead p q) % 2 ^ 32 < ringSize s p q)

/-- The key of a queue's host accesses: 0 without a PASID, else the PASID plus 1 (R475). -/
def pasidKey (s : State) (p q : Nat) : Nat := if s.flag F.hostQPasidEn p q then s.get F.hostQPasidPasid p q + 1 else 0

/-- A translation request for a host page (R184), sent where none for the page is outstanding. `pg` is the page address,
plus 1 for a write. -/
def requestAts (p ps pg : Nat) (who : AtsWho) (early : Bool := false) : Act := fun s =>
  let r : AtsReq := { page := pg / 4096 * 4096, write := pg % 2 == 1, ps := ps, who := who, early := early }
  let x := s.part p
  if x.atsReqs.contains r then []
  else
    let out := x.atsReqs.any fun y => y.page == r.page && y.ps == ps && (y.write || !r.write)
    Upd.part p (fun y => { y with atsReqs := y.atsReqs ++ [r] }) ::
      (if out then [] else [Upd.emit (.atsRequest (s.owner p) p ps r.page r.write)])

/-- Bytes written by the module itself at translated places. -/
def moduleStore (runs : List (Nat × List Byte)) : Act :=
  Act.each runs fun r => Act.all [storeBytes r.1 r.2,
    if isHostLoc r.1 then Act.of [.emit (.hostWrite (hostFn r.1) (hostAddr r.1) r.2)] else Act.skip]

/-- The write index moves past a record, and its message leaves (R210, R212). -/
def recordDone (p q : Nat) (r : CplRecord) : Act := fun s =>
  Act.all [
    Act.set F.hostQCplTailCplTail p q ((s.get F.hostQCplTailCplTail p q + 1) % 2 ^ 32),
    Act.of [.queue p q fun x => { x with records := x.records.drop 1 }],
    if r.msg then sendMsix (s.owner p) r.vector else Act.skip] s

/-- Writes held records while the ring has space (R210-R212); CPL_FULL says whether one waits for space. A record in host
memory may wait for its translation. -/
def flushRecords (p q : Nat) : Act := fun s =>
  Act.all [
    go p q (s.queue p q).records,
    Act.look fun s => Act.set F.hostQStatusCplFull p q (if (s.queue p q).records.isEmpty || cplFree s p q then 0 else 1)] s
where
  go (p q : Nat) : List CplRecord → Act
    | [] => Act.skip
    | r :: rest => fun s =>
      if !cplFree s p q then []
      else
        let t := s.get F.hostQCplTailCplTail p q
        let n := ringSize s p q
        match writeRange s p (pasidKey s p q) true (s.get F.hostQCplBaseAddr p q * 32 + t % n * 32) false (r.bytes p q t n) with
        | .inl runs => Act.all [moduleStore runs, recordDone p q r, go p q rest] s
        | .inr (.inl _) => Act.all [
            logFault { code := 0x1102, scope := 0, part := some p, unit := 4, queue := some q, index := r.index },
            recordDone p q r, go p q rest] s
        | .inr (.inr pg) => requestAts p (pasidKey s p q) pg (.record q) false s

def pushRecord (p q : Nat) (r : CplRecord) : Act :=
  (Act.of [.queue p q fun x => { x with records := x.records ++ [r] }]).seq (flushRecords p q)

/-! ### Discarding work (R175, R186, R482) -/

/-- A stream when a task is discarded: at its first element, with the bases it had when that task started (R175). One that the task did not
find in its slot only loses what run-ahead fetched for the task. -/
def Stream.discard (id : Nat) (st : Stream) : Stream :=
  match st.starts.find? fun e => e.1 == id with
  | some e =>
    { st with desc := e.2, pos := 0, held := [], staged := [], upto := [], ahead := 0, later := [], arms := [], starts := st.starts.filter fun x => decide (x.1 ≠ id) }
  | none => { st with later := st.later.filter fun x => decide (x.task ≠ id) }

/-- What a core keeps when a run of task id is discarded: its contexts idle, the streams that the task bound released, those it found bound
back in their slots at the bases of the task's start, even one that it has unbound (R175), its passes gone. -/
def Core.discard (id : Nat) (c : Core) : Core :=
  let back := (c.unbound.filter fun u => u.1 == id).map (·.2)
  { c with
    ctxs := c.ctxs.map fun e => if e.2.task = some id then (e.1, {}) else e
    streams := ((c.streams.filter fun e => decide (e.2.owner ≠ id) && !(back.any fun b => b.1 == e.1)) ++ back).map fun e => (e.1, e.2.discard id)
    unbound := c.unbound.filter fun u => decide (u.1 ≠ id ∧ u.2.2.owner ≠ id)
    groups := c.groups.filter fun g => decide (g.task ≠ id)
    units := c.units.filter fun u => !(c.groups.any fun g => g.id == u.group && g.task == id) }

/-- Ends the run of a task on every core of its mask: no further request is issued, stores already issued stay (R186), and reads already
issued stay outstanding until their data come, which nothing takes (R166, R196). Its Drover requests are abandoned (R292). -/
def discardRun (id : Nat) : Act := fun s =>
  match s.task id with
  | none => []
  | some t =>
    (t.desc.mask.map fun c => Upd.core c (Core.discard id)) ++
    ((List.range 4).map fun d => Upd.die d fun x =>
      { x with drover := x.drover.filter fun r => decide (r.2.2.1 ≠ id)
               clash := x.clash.filter fun c => !(x.drover.any fun r => r.1 == c && r.2.2.1 == id)
               active := x.active && !((x.drover.head?).any fun r => r.2.2.1 == id) }) ++
    ((List.range 4).filterMap fun d =>
      match ((s.die d).drover.filter fun r => r.2.2.1 == id).length with
      | 0 => none
      | n + 1 => some (Upd.add ⟨.dieDrvRequests, d, 0⟩ (n + 1))) ++
    [.reqs fun l => l.map fun r => if r.task = id ∨ r.later = some id then { r with dead := true } else r,
     .stores fun l => l.filter fun x => decide (x.task ≠ id) || x.issued]

/-- Discards a task (R186). -/
def discardTask (id : Nat) : Act :=
  (discardRun id).seq (Act.of [.tasks fun l => l.filter fun x => decide (x.id ≠ id)])

/-- RUNNING follows whether a task of the queue runs (R230). -/
def updRunning (p q : Nat) : Act := fun s =>
  [.fld F.hostQStatusRunning p q (if s.tasks.any (fun t => t.p == p && t.q == q) then 1 else 0)]

/-- Step 1 of R482; the work is discarded and the record written when PARTITION_FAULT_COMPLETE comes. A further fault is logged
and absorbed (R481). -/
def partitionFault (r0 : FaultRec) (p : Nat) : Act := fun s =>
  let r := { r0 with scope := 2, part := some p, time := s.time }
  if s.flag F.fltPartStatusFaulted p then logRec r s
  else [.fld F.fltPartStatusFaulted p 0 1, .fld F.fltPartStatusCode p 0 r.code,
    .part p fun x => { x with draining := true, faultPending := some r }]

/-- A record of the trace ring at D1 and above (R523): 0 dispatch, 1 completion, 2 fault. -/
def traceRec (event p q index : Nat) : Act := fun s =>
  if s.get F.dbgLevelCur = 0 then []
  else [.sec fun x => { x with trace := ((bytesOf 4 (event + 4 * p + 16 * q) ++ bytesOf 4 index ++ bytesOf 8 s.time) :: x.trace).take 16384, traceCount := x.traceCount + 1 }]

/-- i comes after j among the free-running indices of a queue. -/
def laterIndex (i j : Nat) : Bool := decide (i ≠ j) && decide ((i + 2 ^ 32 - j) % 2 ^ 32 < 2 ^ 31)

/-- A queue holds at a task: tasks of the queue after it that no core has begun go back to the ring (R204, R205). Of
tasks that fault while it is held, the ring goes on with the earliest. -/
def holdAt (p q index : Nat) (cores : List Nat) : Act := fun _ =>
  [.tasks fun l => l.filter fun t => !(t.p == p && t.q == q && t.started.isEmpty && laterIndex t.index index),
   .queue p q fun x => { x with held := some index, heldCores := cores, fetched := none
                                next := if x.held.isSome && !laterIndex x.next index then x.next else index },
   .fld F.hostQStatusHeld p q 1]

/-- A fault of a running task (R186, R210, R220): a NON_REPLAYABLE task's fault is a partition fault. -/
def taskFault (id code : Nat) (unit core : Nat) (addr : Option (Nat × Bool) := none) : Act := fun s =>
  match s.task id with
  | none => []
  | some t =>
    let r : FaultRec := { code := code, scope := 1, part := some t.p, unit := unit, core := core, queue := some t.q, index := t.index, addr := addr }
    if t.desc.nonReplayable || codeScope code == 2 then (traceRec 2 t.p t.q t.index).seq (partitionFault r t.p) s
    else
      Act.all [
        logFault r,
        traceRec 2 t.p t.q t.index,
        discardTask id,
        holdAt t.p t.q t.index t.desc.mask,
        updRunning t.p t.q,
        Act.when (fun _ => !s.flag F.fltPartStatusFaulted t.p)
          (pushRecord t.p t.q { index := t.index, status := 1, code := code, endTime := s.time, startTime := t.dispatchTime, restarts := t.restarts, letouts := t.letoutPasses, msg := true, vector := t.live.vector })] s

end Sys2Proof.Machine
end

