-- ==== Sys2Proof/Machine/Flags.lean ====
section
/-! DEFINITION. The error flags of register accesses (R548) and the counts of corrected errors (R491, R496). -/

namespace Sys2Proof.Machine

/-- The CFG_ERR bits that one access is marked with (R548). -/
structure Mark where
  acc : Bool := false
  busy : Bool := false
  mis : Bool := false
  rsv : Bool := false
  deriving DecidableEq, Repr

def Mark.any (m : Mark) : Bool := m.acc || m.busy || m.mis || m.rsv
def Mark.or (a b : Mark) : Mark := { acc := a.acc || b.acc, busy := a.busy || b.busy, mis := a.mis || b.mis, rsv := a.rsv || b.rsv }
/-- FIRST: the first bit in the order ACCESS, BUSY, MISMATCH, RESERVED. -/
def Mark.first (m : Mark) : Nat := if m.acc then 2 else if m.busy then 3 else if m.mis then 4 else if m.rsv then 1 else 0
/-- CFG_ERR bits [3:0]. -/
def Mark.bits (m : Mark) : Nat :=
  (if m.rsv then 1 else 0) + (if m.acc then 2 else 0) + (if m.busy then 4 else 0) + (if m.mis then 8 else 0)

def Mark.ofBits (n : Nat) : Mark := { rsv := n.testBit 0, acc := n.testBit 1, busy := n.testBit 2, mis := n.testBit 3 }

/-- Records a marked access of function f at an offset of a BAR (0, 1 for BAR2, 2 for BAR4). -/
def cfgMark (f : Fn) (m : Mark) (bar off : Nat) (write : Bool) : Act := fun s =>
  let i := f.idx
  let old := (s.reg ⟨.cfgErr, i, 0⟩).toNat % 16
  if !m.any then []
  else
    let set := (if m.rsv then [Upd.fld F.cfgErrReserved i 0 1] else []) ++ (if m.acc then [Upd.fld F.cfgErrAccess i 0 1] else []) ++
      (if m.busy then [Upd.fld F.cfgErrBusy i 0 1] else []) ++ (if m.mis then [Upd.fld F.cfgErrMismatch i 0 1] else [])
    if old = 0 then
      set ++ [.fld F.cfgErrFirst i 0 m.first, .fld F.cfgErrAddrOffset i 0 off, .fld F.cfgErrAddrBar i 0 bar,
        .fld F.cfgErrAddrWrite i 0 (if write then 1 else 0)]
    else set ++ [.fld F.cfgErrOverrun i 0 1]

/-- A write of v to CFG_ERR by function f (R548): where bits [3:0] fall to 0, FIRST, OVERRUN and CFG_ERR_ADDR clear too. -/
def cfgErrClear (f : Fn) (v : Nat) : Act := fun s =>
  let i := f.idx
  let now := (s.reg ⟨.cfgErr, i, 0⟩).toNat
  let left := now &&& (0x8F ^^^ (v &&& 0x8F)) ||| (now &&& 0x70)
  if left % 16 = 0 then [.reg ⟨.cfgErr, i, 0⟩ 0, .reg ⟨.cfgErrAddr, i, 0⟩ 0]
  else [.reg ⟨.cfgErr, i, 0⟩ (BitVec.ofNat 64 left)]

/-- The unit whose memory serves a physical address (R20, R21, R496). -/
def ceUnitOf (s : State) (a : Nat) : CeUnit :=
  match placeOf a, s.serving a with
  | .tier1 _, some (_, d, k) => .tier1 (Fin.ofNat 32 (8 * d + k))
  | .tier2 _, some (_, d, k) => .tier2 (Fin.ofNat 16 (4 * d + k))
  | .buffer d, _ => .die (Fin.ofNat 4 d)
  | .localMem c, _ => .die (Fin.ofNat 4 (c / 36))
  | _, _ => .hub

/-- Counter register of a unit. -/
def ceReg : CeUnit → Reg
  | .tier1 s => ⟨.fltCeTier1, s.val, 0⟩
  | .tier2 c => ⟨.fltCeTier2, c.val, 0⟩
  | .die d => ⟨.fltCeDie, d.val, 0⟩
  | .hub => ⟨.fltCeHub, 0, 0⟩

/-- UNIT and SLOT of a fault record (R486): the die or the hub, and the stack or channel within it. -/
def cePlace : CeUnit → Nat × Nat
  | .tier1 s => (s.val / 8, s.val % 8)
  | .tier2 c => (c.val / 4, c.val % 4)
  | .die d => (d.val, 0)
  | .hub => (4, 0)

/-- Index of a unit among the windows of R491. -/
def ceIx : CeUnit → Nat
  | .tier1 s => s.val
  | .tier2 c => 32 + c.val
  | .die d => 48 + d.val
  | .hub => 52

/-- A corrected error of a unit: counted, and reported with code 0x1010 once per hour in which the unit's errors of the last
hour exceed PER_HOUR (R491, R496). The window keeps the times of the last hour's errors. -/
def ceCount (u : CeUnit) : Act := fun s =>
  let hour := 3600000000000
  let lim := s.get F.fltCeLimitPerHour
  let w := tget s.ce (ceIx u) {}
  let times := s.time :: w.times.filter fun t => decide (s.time < t + hour)
  let alarm := decide (lim ≠ 0) && decide (lim < times.length) && (match w.alarm with
    | some t => decide (t + hour ≤ s.time)
    | none => true)
  Act.all [
    Act.of [.add (ceReg u) 1, .ce fun l => tset l (ceIx u) { w with times := times, alarm := if alarm then some s.time else w.alarm }],
    if alarm then logFault { code := 0x1010, scope := 0, part := none, unit := (cePlace u).1, slot := (cePlace u).2 } else Act.skip] s

/-- What the error checks find in one access of the memory at physical address a (R477, R478). -/
def memError (a : Nat) (e : MemErr) : Act := fun s =>
  match e with
  | .none => []
  | .correctable => ceCount (ceUnitOf s a) s
  | .uncorrectable => poisonGranule a s

end Sys2Proof.Machine
end

