-- ==== Sys2Proof/Machine/Functions.lean ====
section
/-! DEFINITION. The elementary functions of the vector unit (R268-R270) as exact values or as values close enough to them
that every rounding of the spec gives the exact result, and the counter generator (R278-R280). -/

namespace Sys2Proof.Machine

/-- Greatest r with r * r ≤ n, bit by bit from bit b - 1 down. -/
def isqrtFrom (n : Nat) : Nat → Nat → Nat
  | 0, acc => acc
  | b + 1, acc => isqrtFrom n b (if (acc + 2 ^ b) * (acc + 2 ^ b) ≤ n then acc + 2 ^ b else acc)

def isqrt (n : Nat) : Nat := isqrtFrom n (Nat.log2 n / 2 + 1) 0

/-- Fixed-point scale of the functions below, in bits: far finer than any midpoint of a format. -/
def fxBits : Nat := 320

/-- Square root of n / d × 2^e as floor with a sticky bit below it (R268). -/
def sqrtVal (n d : Nat) (e : Int) : Num :=
  let odd := decide (e % 2 = 1)
  let n' := if odd then 2 * n else n
  let e' := if odd then e - 1 else e
  let x := n' * d * 4 ^ fxBits
  let r := isqrt x
  .fin false (2 * r + (if r * r = x then 0 else 1)) (2 * d) (e' / 2 - fxBits)

/-- ln 2 in units of 2^-fxBits. -/
def ln2Fx : Int := (List.range fxBits).foldl (fun a k => a + (2 ^ (fxBits - (k + 1)) : Nat) / (k + 1 : Nat)) (0 : Int)

/-- Σ r^k / k! in fixed point, for a small r. -/
def expSeries (r : Int) : Nat → Nat → Int → Int → Int
  | 0, _, _, acc => acc
  | n + 1, k, term, acc => expSeries r n (k + 1) (term * r / 2 ^ fxBits / (k : Int)) (acc + term)

/-- e^x for a finite non-zero x: a value whose relative error is far below half a unit of FP32; beyond |x| = 512 a value
that overflows or rounds to zero as e^x does. -/
def expVal (neg : Bool) (n d : Nat) (e : Int) : Num :=
  let p := scalePow n d (e + fxBits)
  let x : Int := if neg then -((p.1 / p.2 : Nat) : Int) else (p.1 / p.2 : Nat)
  if 512 * (2 : Int) ^ fxBits ≤ x then .fin false 1 1 700
  else if x ≤ -(512 * (2 : Int) ^ fxBits) then .fin false 1 1 (-700)
  else
    let k := (2 * x + ln2Fx) / (2 * ln2Fx)
    let r := x - k * ln2Fx
    .fin false (expSeries r 100 1 (2 ^ fxBits) 0).toNat 1 (k - fxBits)

/-- 2 × (z + z^3 / 3 + z^5 / 5 + ...) in fixed point. -/
def atanhSeries (z2 : Int) : Nat → Nat → Int → Int → Int
  | 0, _, _, acc => 2 * acc
  | n + 1, k, term, acc => atanhSeries z2 n (k + 2) (term * z2 / 2 ^ fxBits) (acc + term / (k : Int))

/-- ln x for a positive finite x other than 1. -/
def logVal (n d : Nat) (e : Int) : Num :=
  let k0 := floorLog2 n d e
  -- m = x / 2^k0 in [1, 2); halve it above 1.5
  let p := scalePow n d (e - k0)
  let up := decide (3 * p.2 < 2 * p.1)
  let k := if up then k0 + 1 else k0
  let b := if up then 2 * p.2 else p.2
  let z : Int := ((p.1 : Int) - b) * 2 ^ fxBits / (p.1 + b : Nat)
  let v := k * ln2Fx + atanhSeries (z * z / 2 ^ fxBits) 110 1 z 0
  if v = 0 then .zero false else .fin (decide (v < 0)) v.natAbs 1 (-fxBits)

/-- tanh x for a finite non-zero x. -/
def tanhVal (neg : Bool) (n d : Nat) (e : Int) : Num :=
  if 6 < floorLog2 n d e then .fin neg (2 ^ 100 - 1) (2 ^ 100) 0
  else
    match expVal false n d (e + 1) with
    | .fin _ t _ k =>
      let q := scalePow t 1 k
      if q.1 ≤ q.2 then .fin neg n d e else .fin neg (q.1 - q.2) (q.1 + q.2) 0
    | _ => .nan

/-- 1 / (1 + e^-x) for a finite non-zero x. -/
def sigmoidVal (neg : Bool) (n d : Nat) (e : Int) : Num :=
  match expVal neg n d e with
  | .fin _ t _ k => let q := scalePow t 1 k; .fin false q.1 (q.1 + q.2) 0
  | _ => .nan

def numOne : Num := .fin false 1 1 0

/-- The unary functions with their special operands (R268, R270, R77). -/
def fnSqrt : Num → Num
  | .nan => .nan
  | .inf s => if s then .nan else .inf false
  | .zero s => .zero s
  | .fin s n d e => if s then .nan else sqrtVal n d e

def fnRsqrt : Num → Num
  | .nan => .nan
  | .inf s => if s then .nan else .zero false
  | .zero s => .inf s
  | .fin s n d e => if s then .nan else sqrtVal d n (-e)

def fnRecip (x : Num) : Num := Num.div numOne x

def fnExp : Num → Num
  | .nan => .nan
  | .inf s => if s then .zero false else .inf false
  | .zero _ => numOne
  | .fin s n d e => expVal s n d e

def fnLog : Num → Num
  | .nan => .nan
  | .inf s => if s then .nan else .inf false
  | .zero _ => .inf true
  | .fin s n d e => if s then .nan else if Num.eq (.fin s n d e) numOne then .zero false else logVal n d e

def fnTanh : Num → Num
  | .nan => .nan
  | .inf s => .fin s 1 1 0
  | .zero s => .zero s
  | .fin s n d e => tanhVal s n d e

def fnSigmoid : Num → Num
  | .nan => .nan
  | .inf s => if s then .zero false else numOne
  | .zero _ => .fin false 1 1 (-1)
  | .fin s n d e => sigmoidVal s n d e

/-! ### The counter generator (R278) -/

def rotl64 (x : DWord) (k : Nat) : DWord := x.rotateLeft k

def genRound (k : DWord) (x : DWord × DWord) (i rot : Nat) : DWord × DWord :=
  let ki := k + BitVec.ofNat 64 (i * 0x9E3779B97F4A7C15)
  let x0 := x.1 + x.2 + ki
  (x0, rotl64 x.2 rot ^^^ x0)

def genRots : List Nat := [24, 44, 12, 36, 20, 52, 8, 28]

/-- out0 and out1 for counter c (128 bits) and key k (R278). -/
def counterGen (c : Nat) (k : DWord) : DWord × DWord :=
  genRots.zipIdx.foldl (fun x r => genRound k x r.2 r.1) (BitVec.ofNat 64 c, BitVec.ofNat 64 (c / 2 ^ 64))

/-- The counter of a draw (R279): consumer 0 Drover, 1 stochastic rounding. -/
def drawCounter (step consumer tensor element : Nat) : Nat :=
  (step % 2 ^ 48) * 2 ^ 80 + consumer % 16 * 2 ^ 76 + tensor % 4096 * 2 ^ 64 + element % 2 ^ 64

end Sys2Proof.Machine
end

