-- ==== Sys2Proof/Machine/Operands.lean ====
section
/-! DEFINITION. Streams and operands: descriptors and their checks (R151-R158), the delivery order of every stream type
(R155-R163), the place of elements and scales (R163, R164), extents (R185), loads, stores and operand specifiers
(R239, R240). -/

namespace Sys2Proof.Machine

/-! ### Runs that may stop -/

/-- Why an instruction stops before its end: a fault code with the address it concerns, a host page that awaits its translation, or bytes
that are not yet present: n bytes at a location, which index data are (R178). -/
inductive Stop
  | fault (code : Nat) (addr : Option (Nat × Bool))
  | ats (page : Nat)
  | stall
  | need (addr loc n : Nat) (index : Bool)
  deriving DecidableEq, Repr

/-- Updates made so far, and the stop where there is one. -/
abbrev Run := State → List Upd × Option Stop

namespace Run

def ok : Run := fun _ => ([], none)
def fail (e : Stop) : Run := fun _ => ([], some e)
def act (a : Act) : Run := fun s => (a s, none)
def seq (a b : Run) : Run := fun s =>
  match a s with
  | (us, some e) => (us, some e)
  | (us, none) => let r := b (applyAll us s); (us ++ r.1, r.2)
def all : List Run → Run
  | [] => ok
  | a :: r => a.seq (all r)
def each {α : Type} (xs : List α) (f : α → Run) : Run := all (xs.map f)
/-- Computes a value from the state; a stop ends the run. -/
def read {α : Type} (f : State → Except Stop α) (k : α → Run) : Run := fun s =>
  match f s with
  | .ok x => k x s
  | .error e => ([], some e)

end Run

def RRes.toExcept : RRes → Except Stop (List Byte)
  | .ok bs => .ok bs
  | .fault c a v => .error (.fault c (some (a, v)))
  | .needAts p => .error (.ats p)

/-! ### Geometry -/

/-- Depth of a pass of a format (R81). -/
def Fmt.kDepth : Fmt → Nat
  | .bf16 | .fp16 => 16
  | .e2m1 | .int4 => 64
  | _ => 32

def ceilDiv (a b : Nat) : Nat := (a + b - 1) / b

def ConvGeom.ow (g : ConvGeom) : Nat :=
  if g.w + g.pwLo + g.pwHi < g.dw * (g.kw - 1) + 1 then 0
  else (g.w + g.pwLo + g.pwHi - g.dw * (g.kw - 1) - 1) / g.sw + 1
def ConvGeom.oh (g : ConvGeom) : Nat :=
  if g.h + g.phLo + g.phHi < g.dh * (g.kh - 1) + 1 then 0
  else (g.h + g.phLo + g.phHi - g.dh * (g.kh - 1) - 1) / g.sh + 1

/-- Rows and positions of a row of a row-shaped stream, without padding (R156-R160). -/
def Desc.rowCount (d : Desc) : Nat :=
  match d.body with
  | .linear c _ => c.foldl (· * ·) 1 / (c.headD 1)
  | .indexed _ n _ _ _ _ => n
  | .scatter _ n _ _ _ _ => n
  | .conv g => g.batch * g.oh * g.ow
  | .neighbour _ _ _ _ n _ _ _ => n

def Desc.rowLen (d : Desc) : Nat :=
  match d.body with
  | .linear c _ => c.headD 1
  | .indexed _ _ e _ _ _ => e
  | .scatter _ _ e _ _ _ => e
  | .conv g => g.kh * g.kw * g.c
  | .neighbour fo fe _ _ _ _ _ _ => fo * fe

/-- Length of a delivered row, padded to a multiple of K for a matrix format (R156, R160). -/
def Desc.rowPadded (d : Desc) : Nat :=
  match d.body with
  | .linear _ _ | .scatter _ _ _ _ _ _ => d.rowLen
  | _ => if d.coreFmt.matrixOk then ceilDiv d.rowLen d.coreFmt.kDepth * d.coreFmt.kDepth else d.rowLen

def Desc.rowBlock (d : Desc) : Nat :=
  match d.body with
  | .indexed _ _ _ _ _ b => b
  | .conv g => g.rowBlock
  | .neighbour _ _ _ _ _ _ _ b => b
  | _ => 0

/-- Where a delivered position lies: row, column, matrix index over dimensions 2 to 4, and whether it lies beyond the
matrix or the row (masked, R156, R160, R163). -/
structure Coord where
  r : Nat
  c : Nat
  s : Nat := 0
  out : Bool := false
  deriving DecidableEq, Repr

/-- Elements that the stream delivers or receives in all. -/
def Desc.total (d : Desc) : Nat :=
  match d.body with
  | .linear c _ =>
    if d.tiled then 256 * ceilDiv (c.getD 0 1) 16 * ceilDiv (c.getD 1 1) 16 * (c.getD 2 1 * c.getD 3 1 * c.getD 4 1)
    else c.foldl (· * ·) 1
  | _ => d.rowCount * d.rowPadded

/-- The coordinate of the j-th delivered position (R155, R162, R163). -/
def Desc.coord (d : Desc) (j : Nat) : Coord :=
  match d.body with
  | .linear c _ =>
    let c0 := c.getD 0 1
    let c1 := c.getD 1 1
    if d.tiled then
      let dd := ceilDiv c0 16
      let per := 256 * dd * ceilDiv c1 16
      let b := j % per / 256
      let e := j % 256
      let i1 := 16 * (b / dd) + e / 16
      let i0 := 16 * (b % dd) + e % 16
      { r := i1, c := i0, s := j / per, out := decide (c0 ≤ i0 ∨ c1 ≤ i1) }
    else { r := j / c0 % c1, c := j % c0, s := j / (c0 * c1) }
  | _ =>
    let l := d.rowPadded
    let m := d.rowBlock
    if m = 0 ∨ !d.coreFmt.matrixOk then { r := j / l, c := j % l, out := decide (d.rowLen ≤ j % l) }
    else
      let k := d.coreFmt.kDepth
      let b := j / (l * m)
      let w := j % (l * m)
      let mb := Nat.min m (d.rowCount - b * m)
      let ch := w / (k * mb)
      let e := w % (k * mb)
      { r := b * m + e / k, c := ch * k + e % k, out := decide (d.rowLen ≤ ch * k + e % k) }

/-- An address plus a signed offset, modulo 2^56. -/
def addrAdd (a : Nat) (o : Int) : Nat := (((a : Int) + o) % (2 ^ 56 : Nat)).toNat

/-- Start of matrix s of a LINEAR stream: dimensions 2 to 4 with i2 fastest (R155, R163). -/
def linMatrix (d : Desc) (counts : List Nat) (strides : List Int) (s : Nat) : Nat :=
  let i2 := s % counts.getD 2 1
  let i3 := s / counts.getD 2 1 % counts.getD 3 1
  let i4 := s / (counts.getD 2 1 * counts.getD 3 1)
  addrAdd d.base (i2 * strides.getD 1 0 + i3 * strides.getD 2 0 + i4 * strides.getD 3 0)

/-- Address of the byte group and bit offset of a LINEAR element (R155, R163). -/
def linPlace (d : Desc) (counts : List Nat) (strides : List Int) (x : Coord) : Nat × Nat :=
  let w := d.memFmt.bits
  let m := linMatrix d counts strides x.s
  if d.tiled then
    let blk := x.r / 16 * ceilDiv (counts.getD 0 1) 16 + x.c / 16
    let e := x.r % 16 * 16 + x.c % 16
    (addrAdd m (blk * (32 * w) + e * w / 8), e * w % 8)
  else (addrAdd m (x.r * strides.getD 0 0 + (x.c * w / 8 : Nat)), x.c * w % 8)

/-- Bytes of one pixel of a convolution input (R157). DESIGN CHOICE (log 56): for SGN1, of which the rule does not speak, the bytes that hold
C bits. -/
def pixelBytes (f : Fmt) (c : Nat) : Nat :=
  if f.bits = 4 then ceilDiv c 2 else if f.bits = 6 then 3 * ceilDiv c 4 else if f.bits = 1 then ceilDiv c 8 else c * (f.bits / 8)

/-- Scale bytes of one matrix and index of an element's scale in it (R164). -/
def linScale (d : Desc) (counts : List Nat) (x : Coord) : Nat :=
  let c0 := counts.getD 0 1
  let c1 := counts.getD 1 1
  let blk := if d.memFmt = .sgn1 ∨ d.coreFmt = .sgn1 then 256 else 32
  if d.blockDim = 0 then x.s * (c1 * ceilDiv c0 blk) + x.r * ceilDiv c0 blk + x.c / blk
  else x.s * (c0 * ceilDiv c1 blk) + x.c * ceilDiv c1 blk + x.r / blk

def Desc.blockLen (d : Desc) : Nat := if d.memFmt = .sgn1 ∨ d.coreFmt = .sgn1 then 256 else 32

/-- The coordinates of the scale block of a position (R57, R164): along dimension 0 or 1 of a LINEAR stream, along the
delivered row of the others. -/
def Desc.blockOf (d : Desc) (x : Coord) : List Coord :=
  let b := d.blockLen
  match d.body with
  | .linear c _ =>
    if d.blockDim = 0 then
      (List.range (Nat.min b (c.getD 0 1 - x.c / b * b))).map fun k => { x with c := x.c / b * b + k }
    else (List.range (Nat.min b (c.getD 1 1 - x.r / b * b))).map fun k => { x with r := x.r / b * b + k }
  | _ =>
    (List.range (Nat.min b (d.rowPadded - x.c / b * b))).map fun k =>
      { x with c := x.c / b * b + k, out := decide (d.rowLen ≤ x.c / b * b + k) }

/-- Index of the scale of a position among delivered scales: chosen or supplied scales of a quantizing load (R164). -/
def Desc.deliveredScale (d : Desc) (x : Coord) : Nat :=
  match d.body with
  | .linear c _ => linScale d c x
  | _ => x.r * ceilDiv d.rowPadded d.blockLen + x.c / d.blockLen

/-! ### Reading through a stream -/

/-- Who reads or writes through a stream. -/
structure Who where
  p : Nat
  core : Nat
  ctx : Nat
  /-- PASID key of the task's queue -/
  ps : Nat := 0
  /-- the pass that writes, where a pass does -/
  pass : Option Nat := none
  deriving DecidableEq, Repr

/-- A location in tier 2, where every request of an off-load stream must lie (R329). -/
def isTier2 (l : Nat) : Bool :=
  match placeOf l with
  | .tier2 _ => !isHostLoc l
  | _ => false

def heldByte (xs : List (Nat × List Byte)) (l : Nat) : Option Byte :=
  (xs.find? fun e => decide (e.1 ≤ l ∧ l < e.1 + e.2.length)).map fun e => e.2.getD (l - e.1) 0

/-- One byte through a stream: from its staged segment where one is held (R150, R172), else from memory. A strict reader takes only bytes that
are staged (R84), and those that the core has overwritten since its pass was issued as they were then (R10). -/
def streamByte (s : State) (w : Who) (st : Stream) (a : Nat) : Except Stop Byte :=
  match translate s w.p w.ps st.desc.va a false with
  | .fault c => .error (.fault c (some (a, st.desc.va)))
  | .needAts pg => .error (.ats pg)
  | .ok l _ =>
    if st.desc.offload && !isTier2 l then .error (.fault 0x3017 (some (a, st.desc.va)))
    else match heldByte st.staged l with
    | some b => .ok ((heldByte st.old l).getD b)
    | none =>
      match s.poisonIn l 1 with
      | some x => .error (.fault (placeOf x).poisonCode (some (x, false)))
      | none => if st.strict then .error (.need a l 1 false) else .ok (byteSeen s w.core l)

def streamBytes (s : State) (w : Who) (st : Stream) (a : Nat) : Nat → Except Stop (List Byte)
  | 0 => .ok []
  | n + 1 =>
    match streamByte s w st a with
    | .error (.need b l _ i) => .error (.need b l (n + 1) i)
    | .error e => .error e
    | .ok b =>
      match streamBytes s w st (a + 1) n with
      | .error e => .error e
      | .ok r => .ok (b :: r)

def streamNat (s : State) (w : Who) (st : Stream) (a n : Nat) : Except Stop Nat := (streamBytes s w st a n).map natOf

/-- A number that decides which addresses to read (STALL_INDEX, R178). -/
def streamIndex (s : State) (w : Who) (st : Stream) (a n : Nat) : Except Stop Nat :=
  match streamNat s w st a n with
  | .error (.need b l k _) => .error (.need b l k true)
  | r => r

/-- Where the source of a position lies: masked, or byte address, bit offset and index of its stored scale. -/
inductive Src
  | masked
  | at (addr bit scale : Nat)
  deriving DecidableEq, Repr

/-- Index 0xFFFFFFFF masks a row or slot (R156-R158, R161). -/
def noIndex : Nat := 0xFFFFFFFF

/-- The source of a coordinate, with the index and range checks of R156, R157 and R158. -/
def locate (s : State) (w : Who) (st : Stream) (x : Coord) : Except Stop Src :=
  let d := st.desc
  let wd := d.memFmt.bits
  let b := d.blockLen
  if x.out then .ok .masked
  else
    match d.body with
    | .linear c str =>
      let p := linPlace d c str x
      .ok (.at p.1 p.2 (linScale d c x))
    | .indexed ib _ e stride lim _ | .scatter ib _ e stride lim _ => do
      let i ← streamIndex s w st (ib + 4 * x.r) 4
      if i = noIndex then pure .masked
      else if lim ≤ i then .error (.fault 0x3012 none)
      else pure (.at (addrAdd d.base (i * stride + x.c * wd / 8 : Nat)) (x.c * wd % 8) (i * ceilDiv e b + x.c / b))
    | .conv g =>
      let oi := x.r % (g.oh * g.ow)
      let bi := x.r / (g.oh * g.ow)
      let tap := x.c / g.c
      let ch := x.c % g.c
      let ih : Int := (oi / g.ow * g.sh : Nat) - (g.phLo : Int) + (tap / g.kw * g.dh : Nat)
      let iw : Int := (oi % g.ow * g.sw : Nat) - (g.pwLo : Int) + (tap % g.kw * g.dw : Nat)
      if ih < 0 ∨ (g.h : Int) ≤ ih ∨ iw < 0 ∨ (g.w : Int) ≤ iw then .ok .masked
      else
        let pix := ih.toNat * g.w + iw.toNat
        .ok (.at (addrAdd d.base (bi * g.batchStride + pix * pixelBytes d.memFmt g.c + ch * wd / 8 : Nat)) (ch * wd % 8)
          (((bi * g.h + ih.toNat) * g.w + iw.toNat) * ceilDiv g.c b + ch / b))
    | .neighbour fo fe nb seg n stride lim _ => do
      let a ← streamIndex s w st (seg + 4 * x.r) 4
      let z ← streamIndex s w st (seg + 4 * x.r + 4) 4
      let last ← streamIndex s w st (seg + 4 * n) 4
      if z < a ∨ fo < z - a ∨ n * fo < last then .error (.fault 0x3012 none)
      else
        let slot := x.c / fe
        if z - a ≤ slot then pure .masked
        else if n * fo ≤ a + slot then .error (.fault 0x3012 none)
        else do
          let i ← streamIndex s w st (nb + 4 * (a + slot)) 4
          if i = noIndex then pure .masked
          else if lim ≤ i then .error (.fault 0x3012 none)
          else pure (.at (addrAdd d.base (i * stride + x.c % fe * wd / 8 : Nat)) (x.c % fe * wd % 8) (i * ceilDiv fe b + x.c % fe / b))

/-- Bits of the element at an address and bit offset. -/
def streamElem (s : State) (w : Who) (st : Stream) (addr bit : Nat) : Except Stop Nat := do
  let wd := st.desc.memFmt.bits
  let v ← streamNat s w st addr (ceilDiv (bit + wd) 8)
  pure (v / 2 ^ bit % 2 ^ wd)

/-- The source value and bits of a coordinate, none where it is masked. -/
def srcElem (s : State) (w : Who) (st : Stream) (x : Coord) : Except Stop (Option (Nat × Nat)) := do
  match ← locate s w st x with
  | .masked => pure none
  | .at a b sc => do
    let v ← streamElem s w st a b
    pure (some (v, sc))

/-- The target of a load's conversion: format and whether block-scaled with chosen scales (a let-out rung, R123). -/
structure Rung where
  fmt : Fmt
  scaled : Bool
  deriving DecidableEq, Repr

/-- The stream is in the watched range of its task (R301, R303). -/
def LiveSnap.watched (v : LiveSnap) (t : Nat) : Bool := v.watchEn && decide (v.watchFirst ≤ t ∧ t ≤ v.watchLast)

/-- OVF and SAT of a stream's conversions; a watched FP16 store takes OVF = INF (R67, R301). -/
def Desc.mode (d : Desc) (watched : Bool) : ConvMode :=
  { ovfInf := d.ovf || (watched && d.store && d.memFmt == .fp16), sat := d.sat }

/-- A load with SCALED = 0 and a block-scaled core side (R154). -/
def Desc.quantizing (d : Desc) : Bool := !d.store && !d.scaled && d.cscaled
/-- No conversion takes place (R154, R73). -/
def Desc.raw (d : Desc) : Bool := d.memFmt == d.coreFmt && d.scaled == d.cscaled

/-- The element that the stream delivers at position j, converted (R154, R156, R161, R163); `rung` replaces the target of a
let-out-controlled pass. -/
def deliverAt (s : State) (w : Who) (st : Stream) (rung : Option Rung) (j : Nat) : Except Stop DElem := do
  let d := st.desc
  let x := d.coord j
  match ← srcElem s w st x with
  | none => pure { masked := true }
  | some (v, sc) =>
    let quant := fun (f : Fmt) (src : Except Stop ScaleSrc) => do
      let members ← (d.blockOf x).mapM (srcElem s w st)
      let vals := members.filterMap fun m => m.map fun e => d.memFmt.decode e.1
      let scale ← src
      let (c, _) := f.convertBlock scale vals
      let val := d.memFmt.decode v
      let bad := vals.any fun y => !y.isFinite
      let cv : Conv := if bad then { bits := 0, nonfinite := !val.isFinite } else if c = 0xFF then { bits := 0 } else f.convertScaled c val
      let first := ((d.blockOf x).zip members).find? fun m => m.2.isSome
      pure { bits := cv.bits, scale := c, conv := some cv, src := val, zeroBlock := (first.any fun m => m.1 == x) && vals.all Num.isZero : DElem }
    match rung with
    | some r =>
      if r.scaled then quant r.fmt (pure .chosen)
      else
        let val := d.memFmt.decode v
        if d.memFmt = r.fmt then pure { bits := v, src := val }
        else
          let cv := r.fmt.convert {} val
          pure { bits := cv.bits, conv := some cv, src := val }
    | none =>
      if d.raw then
        if d.scaled then do
          let c ← streamNat s w st (d.scaleBase + sc) 1
          pure { bits := v, scale := c, src := d.memFmt.decodeScaled c v }
        else pure { bits := v, src := d.memFmt.decode v }
      else if d.quantizing then
        quant d.coreFmt (if d.scaleSrc = 0 then pure .chosen
          else (streamNat s w st (d.scaleBase + d.deliveredScale x) 1).map ScaleSrc.supplied)
      else do
        let val ← if d.scaled then (streamNat s w st (d.scaleBase + sc) 1).map (fun c => d.memFmt.decodeScaled c v)
          else pure (d.memFmt.decode v)
        let cv := d.coreFmt.convert (d.mode false) val
        pure { bits := cv.bits, conv := some cv, src := val }

/-- n delivered elements from the stream's position. -/
def deliver (s : State) (w : Who) (st : Stream) (rung : Option Rung) (n : Nat) : Except Stop (List DElem) :=
  (List.range n).mapM fun k => deliverAt s w st rung (st.pos + k)

/-- The chosen scales of the positions, to be kept at SCALE_BASE (R154): (address, code). -/
def chosenScales (d : Desc) (pos : Nat) (es : List DElem) : List (Nat × Nat) :=
  if d.quantizing && d.scaleSrc == 0 && d.scaleBase != 0 then
    (es.zipIdx.filterMap fun e => if e.1.masked then none else some (d.scaleBase + d.deliveredScale (d.coord (pos + e.2)), e.1.scale)).eraseDups
  else []

/-! ### Regions (R185, R217) -/

/-- Where the bytes from a on that regions cover end: regions that cover a in turn, each once. -/
def coverEnd : Nat → List Region → Int → Int
  | 0, _, a => a
  | n + 1, rs, a => match rs.find? fun r => decide ((r.start : Int) ≤ a ∧ a < r.start + r.len) with
    | some r => coverEnd n rs (r.start + r.len)
    | none => a

/-- The extent lies in regions of the given kinds; one that adjoins another goes on in it. An empty extent lies in any. -/
def coveredBy (kinds : List Nat) (rs : List Region) (va : Bool) (e : Int × Nat × Bool) : Bool :=
  e.2.1 == 0 || decide (e.1 + e.2.1 ≤ coverEnd rs.length (rs.filter fun r => r.va == va && kinds.contains r.kind) e.1)

/-- The extent lies in regions of the task that allow it: READ or SCRATCH for a read, WRITE or SCRATCH for a write (R185, R217). -/
def covered (rs : List Region) (va : Bool) (e : Int × Nat × Bool) : Bool := coveredBy [if e.2.2 then 1 else 0, 2] rs va e

/-! ### Statistics (R140, R141) -/

/-- The counts of one conversion (R141). -/
def TensorCounts.add (t : TensorCounts) (c : Conv) (src : Num) (zeroResult : Bool) : TensorCounts :=
  { t with
    elements := t.elements + 1
    zeros := t.zeros + (if zeroResult then 1 else 0)
    zeroed := t.zeroed + (if c.zeroed then 1 else 0)
    saturated := t.saturated + (if c.saturated then 1 else 0)
    nonfinite := t.nonfinite + (if c.nonfinite then 1 else 0)
    maxMag := if src.isFinite then Machine.maxMag t.maxMag src else t.maxMag }

def TensorCounts.merge (a b : TensorCounts) : TensorCounts :=
  { elements := a.elements + b.elements, zeros := a.zeros + b.zeros, zeroed := a.zeroed + b.zeroed,
    saturated := a.saturated + b.saturated, nonfinite := a.nonfinite + b.nonfinite, maxMag := Machine.maxMag a.maxMag b.maxMag,
    letouts := a.letouts + b.letouts, zeroBlocks := a.zeroBlocks + b.zeroBlocks }

/-- Result of a conversion is +0 or -0 under its block's scale; under scale 0xFF it is NaN (R59), and SGN1 has no zero. -/
def Conv.isZero (c : Conv) (f : Fmt) (scale : Nat := 0x7F) : Bool := (f.decode c.bits).isZero && f != .sgn1 && scale != 0xFF

def DElem.count (f : Fmt) (t : TensorCounts) (e : DElem) : TensorCounts :=
  match e.conv with
  | some c => { t.add c e.src (c.isZero f e.scale) with zeroBlocks := t.zeroBlocks + (if e.zeroBlock then 1 else 0) }
  | none => t

/-- Adds counts to a running task's record of a tensor, where the task's group is enabled (R140). -/
def recordCounts (task : Nat) (tensor : Nat) (c : TensorCounts) : Act := fun _ =>
  [.tasks fun l => l.map fun t =>
    if t.id = task ∧ t.live.statGroups.testBit t.desc.statGroup then
      { t with stats := tset t.stats tensor ((tget t.stats tensor {}).merge c) }
    else t]

/-- Sets the NONFINITE mark of a task for a watched stream (R303). -/
def recordNonfinite (task : Nat) (tensor : Nat) (bad : Bool) : Act := fun _ =>
  [.tasks fun l => l.map fun t =>
    if t.id = task ∧ bad ∧ t.live.watched tensor then { t with nonfinite := true } else t]

/-! ### Stores -/

/-- A staged segment lies in the 256-byte segments that n bytes at l touch (R173). -/
def meetsSegments (l n : Nat) (g : Nat × List Byte) : Bool :=
  decide (l / 256 * 256 < g.1 + g.2.length ∧ g.1 < (l + n + 255) / 256 * 256)

/-- A stream after a store of its core: staged segments that the store overlaps are dropped and fetched again (R173). -/
def Stream.overwritten (l n : Nat) (st : Stream) : Stream :=
  { st with
    staged := st.staged.filter fun g => !meetsSegments l n g
    ahead := if st.staged.any (meetsSegments l n) then st.pos else st.ahead
    later := st.later.map fun x => if x.staged.any (meetsSegments l n) then { x with staged := x.staged.filter (fun g => !meetsSegments l n g), ahead := 0 } else x }

/-- A write of the core at a location, in its passes and streams: a pass issued before it goes on to read the bytes as they were (R10), and
staged segments that it overlaps are dropped (R173). A pass's own write stands, in program order, before the passes issued after it. -/
def Core.wrote (pass : Option Nat) (l : Nat) (old : List Byte) (c : Core) : Core :=
  let keep := fun (st : Stream) => { st with old := st.old ++ [(l, old)] }
  { c with
    streams := c.streams.map fun e => (e.1, e.2.overwritten l old.length)
    groups := if isHostLoc l then c.groups else c.groups.map fun g => if pass.any (fun i => decide (i ≤ g.id)) then g else { g with w := keep g.w, a := keep g.a } }

/-- Puts bytes of a task into its stores: joined to the newest store where they continue it inside one 256-byte segment, so that one request
of at most 256 bytes is formed. -/
def addStore (w : Who) (slot task l : Nat) (va : Option Nat) (bs : List Byte) (offload : Bool) : Act := fun s =>
  let fresh : List Upd := [.stores fun xs => { id := s.nextId, core := w.core, ctx := w.ctx, slot := slot, task := task, loc := l, bytes := bs, issued := false, offload := offload, va := va } :: xs, .newId 1]
  let us : List Upd := match s.stores with
    | x :: _ =>
      if x.core = w.core ∧ x.ctx = w.ctx ∧ x.slot = slot ∧ x.task = task ∧ x.loc + x.bytes.length = l ∧ l % 256 ≠ 0 ∧ x.loc / 256 = (l + bs.length - 1) / 256 ∧
          x.va.map (fun a => a + x.bytes.length) = va ∧ !x.issued then
        [.stores fun xs => match xs with
          | h :: t => { h with bytes := h.bytes ++ bs } :: t
          | [] => []]
      else fresh
    | [] => fresh
  us ++ [.core w.core (Core.wrote w.pass l ((List.range bs.length).map fun k => byteSeen s w.core (l + k)))]

/-- The runs of a write with the address of each one's first byte. -/
def runsAt (a : Nat) : List (Nat × List Byte) → List (Nat × Nat × List Byte)
  | [] => []
  | r :: rest => (a, r.1, r.2) :: runsAt (a + r.2.length) rest

/-- A write of a task through the translation of its partition, as stores that are still to be issued (R166). -/
def taskWrite (w : Who) (slot task : Nat) (va : Bool) (a : Nat) (bs : List Byte) (offload : Bool := false) (spec : Bool := false) : Run := fun s =>
  match writeRange s w.p w.ps va a spec bs with
  | .inl runs =>
    if offload && runs.any (fun r => !isTier2 r.1) then ([], some (.fault 0x3017 (some (a, va))))
    else Run.each (runsAt a runs) (fun r => Run.act (addStore w slot task r.2.1 (if va then some r.1 else none) r.2.2 offload)) s
  | .inr (.inl c) => ([], some (.fault c (some (a, va))))
  | .inr (.inr pg) => ([], some (.ats pg))

/-- The bytes that a write of part of a byte finds: no read of the task, so neither read permission nor poison counts (R182, R478). -/
def oldBytes (s : State) (w : Who) (va : Bool) (a : Nat) : Nat → Except Stop (List Byte)
  | 0 => .ok []
  | n + 1 =>
    match translate s w.p w.ps va a true with
    | .fault c => .error (.fault c (some (a, va)))
    | .needAts pg => .error (.ats pg)
    | .ok l _ => (oldBytes s w va (a + 1) n).map fun r => byteSeen s w.core l :: r

/-- Writes the bits of one element of a store stream, keeping its neighbours' bits; the last element of a row of a format
narrower than a byte also clears the rest of its byte, or of its group of three bytes (R49, R155). -/
def writeElem (w : Who) (slot : Nat) (st : Stream) (addr bit v : Nat) (rowEnd : Bool) : Run := fun s =>
  let d := st.desc
  let wd := d.memFmt.bits
  if wd % 8 = 0 then taskWrite w slot st.boundBy d.va addr (bytesOf (wd / 8) v) d.offload false s
  else
    let n := if rowEnd ∧ wd = 6 ∧ (bit = 0 ∨ bit = 6) then 3 else ceilDiv (bit + wd) 8
    Run.read (fun s => oldBytes s w d.va addr n) (fun old =>
      let o := natOf old
      let keep := if rowEnd then o % 2 ^ bit else o % 2 ^ bit + o / 2 ^ (bit + wd) * 2 ^ (bit + wd)
      taskWrite w slot st.boundBy d.va addr (bytesOf n (keep + v % 2 ^ wd * 2 ^ bit)) d.offload) s

/-- The destination of a coordinate of a store stream; SCATTER checks its index (R158). -/
def storePlace (s : State) (w : Who) (st : Stream) (x : Coord) : Except Stop (Option (Nat × Nat)) := do
  match ← locate s w st x with
  | .masked => pure none
  | .at a b _ => pure (some (a, b))

def Desc.rowEnd (d : Desc) (x : Coord) : Bool := !d.tiled && x.c + 1 == d.rowLen

/-- The padding of a position's last block that memory has room for (R57): positions of a dense LINEAR tensor past the end of the blocked
dimension, where no other row or matrix begins among them and the task may write there. DESIGN CHOICE (log 66): elsewhere the padding has no
place in memory, since R185 takes the tensor to end at its last element. -/
def Desc.padding (d : Desc) (rs : List Region) (x : Coord) : List Coord :=
  match d.body with
  | .linear c str =>
    if d.tiled then []
    else
      let b := d.blockLen
      let n := c.getD d.blockDim 1
      let i := if d.blockDim = 0 then x.c else x.r
      let top := ceilDiv n b * b
      let far := if d.blockDim = 0 then ceilDiv (top * d.memFmt.bits) 8 else top * (str.getD 0 0).natAbs
      let room := ((c.drop (1 + d.blockDim)).zip (str.drop d.blockDim)).all fun p => p.1 == 1 || decide (far ≤ p.2.natAbs)
      let ys := if room && i / b == (n - 1) / b then (List.range (top - n)).map fun k => if d.blockDim = 0 then { x with c := n + k } else { x with r := n + k } else []
      ys.filter fun y => covered rs d.va (((linPlace d c str y).1 : Int), ceilDiv ((linPlace d c str y).2 + d.memFmt.bits) 8, true)
  | _ => []

/-- One element received by a store stream: converted and written, or held until its scale block is whole (R154, R57). -/
def acceptOne (w : Who) (slot : Nat) (watched : Bool) (j : Nat) (val : Num) (raw : Nat) : Run :=
  Run.read (fun s => match (s.core w.core).stream w.ctx slot with
    | some st => .ok st
    | none => .error (.fault 0x3004 none)) fun st =>
  let d := st.desc
  let x := d.coord j
  let bump : Run := Run.act (Act.of [.core w.core fun c => { c with streams := c.streams.map fun e =>
    if e.1 = (w.ctx, slot) then (e.1, { e.2 with pos := j + 1 }) else e }])
  let put := fun (y : Coord) (bits : Nat) =>
    Run.read (fun s => storePlace s w st y) fun pl => match pl with
      | some (a, b) => writeElem w slot st a b bits (d.rowEnd y)
      | none => Run.ok
  let note := fun (scale : Nat) (c : Conv) (v : Num) => Run.act (Act.all [
    if d.stat then recordCounts st.boundBy d.tensorId (({} : TensorCounts).add c v (c.isZero d.memFmt scale)) else Act.skip,
    recordNonfinite st.boundBy d.tensorId (!v.isFinite || c.nonfinite || scale == 0xFF)])
  let body : Run :=
    if x.out then
      match d.body with
      | .linear c str => let pl := linPlace d c str x; writeElem w slot st pl.1 pl.2 0 false
      | _ => Run.ok
    else
      match d.body with
      | .scatter _ _ _ _ _ true =>
        Run.read (fun s => storePlace s w st x) fun pl => match pl with
          | some (a, b) =>
            Run.read (fun s => (readRange s w.p w.ps w.core d.va a (ceilDiv (b + d.memFmt.bits) 8)).toExcept) fun bs =>
              let old := d.memFmt.decode (natOf bs / 2 ^ b % 2 ^ d.memFmt.bits)
              let cv := d.memFmt.convert (d.mode watched) (Num.add old val)
              Run.all [writeElem w slot st a b cv.bits (d.rowEnd x), note 0x7F cv val]
          | none => Run.ok
      | _ =>
        if d.raw then Run.all [put x raw, Run.act (recordNonfinite st.boundBy d.tensorId (!val.isFinite))]
        else if !d.scaled then
          let cv := d.memFmt.convert (d.mode watched) val
          Run.all [put x cv.bits, note 0x7F cv val]
        else
          let members := d.blockOf x
          let held := st.held ++ [(j, val, raw)]
          let got := members.filterMap fun m => (held.find? fun h => d.coord h.1 == m).map fun h => (m, h.2.1)
          if got.length < members.length then
            Run.act (Act.of [.core w.core fun c => { c with streams := c.streams.map fun e =>
              if e.1 = (w.ctx, slot) then (e.1, { e.2 with held := held }) else e }])
          else
            let sa := d.scaleBase + d.deliveredScale x
            Run.read (fun s => (if d.memFmt = .sgn1 then (streamNat s w st sa 1).map ScaleSrc.supplied else .ok ScaleSrc.chosen).map fun src =>
                (src, (s.task st.boundBy).elim [] (fun t => d.padding t.regions x))) fun u =>
            let r := d.memFmt.convertBlock u.1 (got.map (·.2))
            Run.all [
              Run.each (got.zip r.2) (fun e => Run.all [put e.1.1 e.2.bits, note r.1 e.2 e.1.2]),
              Run.each u.2 (fun y => put y 0),
              if d.stat && got.all (fun e => e.2.isZero) then Run.act (recordCounts st.boundBy d.tensorId { zeroBlocks := 1 }) else Run.ok,
              if d.memFmt = .sgn1 then Run.ok else taskWrite w slot st.boundBy d.va sa [BitVec.ofNat 8 r.1] d.offload,
              Run.act (Act.of [.core w.core fun c => { c with streams := c.streams.map fun e =>
                if e.1 = (w.ctx, slot) then (e.1, { e.2 with held := held.filter fun h => !(members.contains (d.coord h.1)) }) else e }])]
  body.seq bump

/-! ### Descriptor parsing (R151-R158) -/

def bit (v lo : Nat) : Bool := v.testBit lo
def bits (v lo w : Nat) : Nat := v / 2 ^ lo % 2 ^ w

/-- Signed value of w bits. -/
def sbits (v lo w : Nat) : Int := signedOf w (bits v lo w)

/-- The combinations of sides and formats of R154. -/
def Desc.convOk (d : Desc) : Bool :=
  let memScaledOk := if d.scaled then d.memFmt.scaleUse == .optional || d.memFmt.scaleUse == .always else d.memFmt.scaleUse != .always
  let coreOk := match d.coreFmt.scaleUse with
    | .always => d.cscaled
    | .optional => true
    | _ => !d.cscaled
  let wide := fun (f : Fmt) => f == .fp32 || f == .bf16 || f == .fp16
  let side :=
    if d.store then
      !d.cscaled && (if d.scaled then wide d.coreFmt && (d.memFmt != .sgn1 || d.scaleSrc != 0) else true)
    else if d.scaled && d.cscaled then d.memFmt == d.coreFmt
    else if d.cscaled then wide d.memFmt && (d.coreFmt != .sgn1 || d.scaleSrc != 0)
    else if d.scaled then wide d.coreFmt
    else true
  let needBase := d.scaled || (d.quantizing && d.scaleSrc != 0)
  memScaledOk && coreOk && side && (!needBase || d.scaleBase != 0)

/-- The rules of the body (R155-R158, R160, R163, R164, R171). -/
def Desc.bodyOk (d : Desc) : Bool :=
  let six := d.memFmt.bits == 6
  let anyScale := d.scaled || d.cscaled
  match d.body with
  | .linear c str =>
    c.all (· != 0) && (!d.mcast || !d.store) &&
    (if d.tiled then d.base % 512 == 0 && ((c.drop 2).zip (str.drop 1)).all (fun p => p.1 == 1 || p.2 % 512 == 0)
     else !six || (d.base % 3 == 0 && ((c.drop 1).zip str).all (fun p => p.1 == 1 || p.2 % 3 == 0)))
  | .indexed _ n e _ _ rb =>
    !d.store && !d.tiled && !d.mcast && n != 0 && e != 0 && decide (rb ≤ 256) && (!anyScale || d.blockDim == 0)
  | .scatter _ n e _ _ _ =>
    d.store && !d.tiled && !d.mcast && n != 0 && e != 0 && !d.scaled
  | .conv g =>
    !d.store && !d.tiled && !d.mcast && g.kw != 0 && g.kh != 0 && g.sw != 0 && g.sh != 0 && g.dw != 0 && g.dh != 0 && g.c != 0 &&
    g.w != 0 && g.h != 0 && g.batch != 0 && decide (g.rowBlock ≤ 256) && decide (1 ≤ g.ow) && decide (1 ≤ g.oh) &&
    (!anyScale || d.blockDim == 0) && (!(d.scaled && d.cscaled) || g.c % d.blockLen == 0)
  | .neighbour fo fe _ _ _ _ _ rb =>
    !d.store && !d.tiled && !d.mcast && fo != 0 && decide (fo ≤ 64) && fe != 0 && decide (rb ≤ 256) &&
    (!anyScale || d.blockDim == 0) && (!(d.scaled && d.cscaled) || fe % d.blockLen == 0)

/-- The body of a descriptor by its TYPE, from the 320 bits at 0x18; none where a reserved bit is set (R155-R158). -/
def parseBody (ty v : Nat) : Option Body :=
  let u32 := fun (o : Nat) => bits v (8 * (o - 0x18)) 32
  let u64 := fun (o : Nat) => bits v (8 * (o - 0x18)) 64
  if ty = 0 then
    some (.linear [u32 0x18, u32 0x1C, u32 0x20, u32 0x24, u32 0x28] ((List.range 4).map fun k => sbits v (160 + 40 * k) 40))
  else if ty = 1 ∨ ty = 3 then
    let rb := u32 0x34
    if u64 0x18 < 2 ^ 56 ∧ u64 0x28 < 2 ^ 48 ∧ u64 0x38 = 0 then
      if ty = 1 then (if rb < 512 then some (.indexed (u64 0x18) (u32 0x20) (u32 0x24) (u64 0x28) (u32 0x30) rb) else none)
      else if rb < 2048 ∧ bits rb 9 2 < 2 then
        some (.scatter (u64 0x18) (u32 0x20) (u32 0x24) (u64 0x28) (u32 0x30) (bits rb 9 2 == 1))
      else none
    else none
  else
    let m := u32 0x18
    let rb := u32 0x3C
    if rb < 512 ∧ bits m 2 6 = 0 then
      if m % 4 ≤ 1 then
        let g : ConvGeom := {
          kw := bits m 8 8, kh := bits m 16 8, sw := bits (u32 0x1C) 0 8, sh := bits (u32 0x1C) 8 8, dw := bits (u32 0x1C) 16 8, dh := bits (u32 0x1C) 24 8,
          pwLo := bits (u32 0x20) 0 8, pwHi := bits (u32 0x20) 8 8, phLo := bits (u32 0x20) 16 8, phHi := bits (u32 0x20) 24 8,
          c := u32 0x24, w := u32 0x28, h := u32 0x2C, batchStride := u64 0x30, batch := u32 0x38, rowBlock := rb }
        let one := g.kh == 1 && g.sh == 1 && g.dh == 1 && g.phLo == 0 && g.phHi == 0 && g.h == 1
        if m < 2 ^ 24 ∧ g.c < 2 ^ 24 ∧ (m % 4 = 1 ∨ one) then some (.conv g) else none
      else if m % 4 = 2 ∧ m < 2 ^ 16 ∧ u64 0x20 < 2 ^ 56 ∧ u64 0x28 < 2 ^ 56 then
        some (.neighbour (bits m 8 8) (u32 0x1C) (u64 0x20) (u64 0x28) (u32 0x30) (u32 0x34) (u32 0x38) rb)
      else none
    else none

/-- A stream descriptor from its 64 bytes; none where it breaks R151-R158 (R250). -/
def parseDesc (bs : List Byte) : Option Desc :=
  let v := natOf bs
  let ctrl := bits v 0 32
  let flags := bits v 32 32
  let ty := ctrl % 8
  match Fmt.ofCode (bits ctrl 4 4), Fmt.ofCode (bits ctrl 8 4), (if ty < 4 then parseBody ty (v / 2 ^ 192) else none) with
  | some mf, some cf, some body =>
    let d : Desc := {
      store := bit ctrl 3, memFmt := mf, coreFmt := cf, scaled := bit ctrl 12, scaleSrc := bits ctrl 13 2, blockDim := bits ctrl 15 1,
      tensorId := bits ctrl 16 12, stat := bit ctrl 28, ovf := bit ctrl 29, sat := bit ctrl 30, tiled := bit ctrl 31,
      va := bit flags 0, persist := bit flags 1, offload := bit flags 2, mcast := bit flags 3, faultEarly := bit flags 4, cscaled := bit flags 5,
      base := bits v 64 64, scaleBase := bits v 128 64, body := body }
    if flags < 64 ∧ d.base < 2 ^ 56 ∧ d.scaleBase < 2 ^ 56 ∧ d.convOk ∧ d.bodyOk then some d else none
  | _, _, _ => none

/-! ### Extents and regions (R185, R217) -/

/-- The bytes of one dimension-0 row of a format. -/
def rowBytes (f : Fmt) (n : Nat) : Nat :=
  if f.bits = 6 then 3 * ceilDiv n 4 else ceilDiv (n * f.bits) 8

/-- Bytes of the scale tensor that a stream reads or writes (R164). -/
def Desc.scaleBytes (d : Desc) : Nat :=
  let b := d.blockLen
  match d.body with
  | .linear c _ =>
    let m := c.getD 2 1 * c.getD 3 1 * c.getD 4 1
    if d.blockDim = 0 then m * c.getD 1 1 * ceilDiv (c.getD 0 1) b else m * c.getD 0 1 * ceilDiv (c.getD 1 1) b
  | .indexed _ n e _ lim _ => if d.scaled then lim * ceilDiv e b else n * ceilDiv d.rowPadded b
  | .scatter _ _ _ _ _ _ => 0
  | .conv g => if d.scaled then g.batch * g.h * g.w * ceilDiv g.c b else d.rowCount * ceilDiv d.rowPadded b
  | .neighbour _ fe _ _ _ _ lim _ => if d.scaled then lim * ceilDiv fe b else d.rowCount * ceilDiv d.rowPadded b

/-- The extents of a stream: first byte, length, and whether the stream writes them (R185). -/
def Desc.extents (d : Desc) : List (Int × Nat × Bool) :=
  let scale : List (Int × Nat × Bool) :=
    if d.scaled then [(d.scaleBase, d.scaleBytes, d.store && d.memFmt != .sgn1)]
    else if d.quantizing && d.scaleBase != 0 then [(d.scaleBase, d.scaleBytes, d.scaleSrc == 0)]
    else []
  let main : List (Int × Nat × Bool) := match d.body with
    | .linear c str =>
      let body : Nat := if d.tiled then ceilDiv (c.getD 0 1) 16 * ceilDiv (c.getD 1 1) 16 * 32 * d.memFmt.bits else rowBytes d.memFmt (c.getD 0 1)
      let dims := if d.tiled then (c.drop 2).zip (str.drop 1) else (c.drop 1).zip str
      let lo : Int := dims.foldl (fun a p => a + min (0 : Int) ((p.1 - 1 : Nat) * p.2 : Int)) 0
      let hi : Int := dims.foldl (fun a p => a + max (0 : Int) ((p.1 - 1 : Nat) * p.2 : Int)) 0
      [((d.base : Int) + lo, (hi - lo).toNat + body, d.store)]
    | .indexed ib n _ stride lim _ => [(d.base, lim * stride, false), (ib, 4 * n, false)]
    | .scatter ib n _ stride lim _ => [(d.base, lim * stride, true), (ib, 4 * n, false)]
    | .conv g => [(d.base, (g.batch - 1) * g.batchStride + g.h * g.w * pixelBytes d.memFmt g.c, false)]
    | .neighbour fo _ nb seg n stride lim _ =>
      [(d.base, lim * stride, false), (seg, 4 * (n + 1), false), (nb, 4 * (n * fo), false)]
  main ++ scale

def Desc.inRegions (d : Desc) (rs : List Region) : Bool := d.extents.all (covered rs d.va)

/-! ### Operands of instructions (R239, R240) -/

/-- Bytes of the core's local memory from a byte offset: past 2 MiB code 0x2006, in the staging area 0x2007 (R239), poison
0x1001 (R479). -/
def localRead (s : State) (core off n : Nat) : Except Stop (List Byte) :=
  if 0x200000 < off + n then .error (.fault 0x2006 none)
  else if s.stageStart core < off + n then .error (.fault 0x2007 none)
  else match s.poisonIn (localBase core + off) n with
    | some a => .error (.fault 0x1001 (some (a, false)))
    | none => .ok (s.bytesAt (localBase core + off) n)

/-- Bytes into the core's local memory, with the same checks; passes issued before go on to read what stood there (R10). -/
def localWrite (core off : Nat) (bs : List Byte) : Run := fun s =>
  if 0x200000 < off + bs.length then ([], some (.fault 0x2006 none))
  else if s.stageStart core < off + bs.length then ([], some (.fault 0x2007 none))
  else Run.act (Act.all [
    Act.of [.core core (Core.wrote none (localBase core + off) ((List.range bs.length).map fun k => byteSeen s core (localBase core + off + k)))],
    storeBytes (localBase core + off) bs]) s

/-- n elements of a packed format in local memory (R49). -/
def localElems (s : State) (core off : Nat) (f : Fmt) (n : Nat) : Except Stop (List Nat) :=
  (localRead s core off (ceilDiv (n * f.bits) 8)).map fun bs =>
    let v := natOf bs
    (List.range n).map fun k => bits v (k * f.bits) f.bits

/-- Elements packed into local memory; the bits of the last byte that they do not fill keep their value. -/
def localPut (core off : Nat) (f : Fmt) (es : List Nat) : Run :=
  let w := es.length * f.bits
  if w % 8 = 0 then localWrite core off (bytesOf (w / 8) (packBits f.bits es))
  else Run.read (fun s => .ok (s.bytesAt (localBase core + off + w / 8) 1)) fun old =>
    localWrite core off (bytesOf (w / 8 + 1) (packBits f.bits es + natOf old / 2 ^ (w % 8) * 2 ^ w))

def Core.tileRow (c : Core) (b : TileBuf) (r : Nat) : List Nat :=
  tget (match b with
    | .bufA => c.tileA
    | .bufB => c.tileB) r (List.replicate 64 0)

def Core.setTileRow (c : Core) (b : TileBuf) (r : Nat) (v : List Nat) : Core :=
  match b with
  | .bufA => { c with tileA := tset c.tileA r v }
  | .bufB => { c with tileB := tset c.tileB r v }

def Ctx.wrote (x : Ctx) : TileBuf → Bool
  | .bufA => x.wroteA
  | .bufB => x.wroteB
def Ctx.holds (x : Ctx) : TileBuf → Bool
  | .bufA => x.holdA
  | .bufB => x.holdB
def Ctx.setWrote (x : Ctx) : TileBuf → Ctx
  | .bufA => { x with wroteA := true, holdA := true }
  | .bufB => { x with wroteB := true, holdB := true }
def Ctx.setHold (x : Ctx) : TileBuf → Ctx
  | .bufA => { x with holdA := true }
  | .bufB => { x with holdB := true }

/-- Another context holds the buffer (R214). -/
def Core.bufTaken (c : Core) (x : Nat) (b : TileBuf) : Bool := c.ctxs.any fun e => e.1 != x && e.2.holds b

def tileElems (c : Core) (b : TileBuf) (row n : Nat) : List Nat :=
  (List.range n).map fun k => (c.tileRow b (row + k / 64)).getD (k % 64) 0

/-- Elements into a buffer in row-major order. -/
def tilePut (core : Nat) (b : TileBuf) (row : Nat) (es : List Nat) : Act := fun _ =>
  (List.range (ceilDiv es.length 64)).map fun r => Upd.core core fun c =>
    let part := (es.drop (64 * r)).take 64
    c.setTileRow b (row + r) (part ++ (c.tileRow b (row + r)).drop part.length)

/-- The source stream of an operand, with the checks of R240. -/
def srcStream (s : State) (w : Who) (slot : Nat) (f : Fmt) (n : Nat) : Except Stop Stream :=
  match (s.core w.core).stream w.ctx slot with
  | none => .error (.fault 0x3004 none)
  | some st =>
    if 16 / s.ctxCount w.p ≤ slot then .error (.fault 0x3004 none)
    else if st.desc.store || st.desc.cscaled || st.desc.coreFmt != f then .error (.fault 0x3004 none)
    else if st.desc.total < st.pos + n then .error (.fault 0x3004 none)
    else if !st.ready then .error .stall
    else .ok st

/-- Where the buffer's last results are still to come, a reader waits (R96, R129); before a write in the task it faults
(R215). -/
def tileCheck (s : State) (w : Who) (b : TileBuf) (needWritten : Bool) : Except Stop Unit :=
  let c := s.core w.core
  if c.bufTaken w.ctx b then .error .stall
  else if c.groups.any (fun g => g.op.buf == b || (g.op.scope != .off && g.op.add && g.op.buf == b.other)) then .error .stall
  else if needWritten && !(c.ctx w.ctx).wrote b then .error (.fault 0x3014 none)
  else .ok ()

/-- A stream whose reader waits for the bytes it lacks. -/
def Stream.waits (st : Stream) : Stream := { st with strict := true }

/-- n source elements of an operand, as bits of format f; of a slot, those after the `off` elements that an earlier operand of the instruction
takes from it (log 67). A masked position reads as +0 (R161). An instruction starts once the first element of each slot is present; the rest
arrive while it runs (log 64). -/
def readOpd (s : State) (w : Who) (o : Opd) (f : Fmt) (n : Nat) (off : Nat := 0) : Except Stop (List DElem) :=
  match o with
  | .none => .ok []
  | .loc v => (localElems s w.core (8 * v) f n).map fun l => l.map fun b => { bits := b, src := f.decode b }
  | .tile b r => do
    tileCheck s w b true
    pure ((tileElems (s.core w.core) b r n).map fun x => { bits := x, src := f.decode x })
  | .slot k => do
    let st ← srcStream s w k f (off + n)
    let st := { st with pos := st.pos + off }
    let _ ← deliver s w st.waits none (Nat.min n 1)
    deliver s w st none n

/-- Some of the next n elements of a stream are not staged. -/
def lateBytes (s : State) (w : Who) (st : Stream) (n : Nat) : Bool :=
  match deliver s w st.waits none n with
  | .error (.need _ _ _ _) => true
  | _ => false

/-- Bytes that requests bring while an instruction runs; how many, and how they merge, is a matter of time (R165, R196, log 1). -/
def lateRead (core : Nat) : Act := fun s => [.add ⟨.coreStReadBytes, core / 36, core % 36⟩ (Config.freeNat s.free), .draw 1]

/-- What reading an operand changes: the stream's position, kept scales, statistics; the buffer's holder. -/
def consumeOpd (w : Who) (task : Nat) (o : Opd) (f : Fmt) (es : List DElem) : Run :=
  match o with
  | .slot k =>
    Run.read (fun s => match (s.core w.core).stream w.ctx k with
      | some st => .ok (st, lateBytes s w st es.length)
      | none => .error (.fault 0x3004 none)) fun x =>
    let st := x.1
    let d := st.desc
    Run.all [
      if x.2 then Run.act (lateRead w.core) else Run.ok,
      Run.each (chosenScales d st.pos es) (fun e => taskWrite w k task d.va e.1 [BitVec.ofNat 8 e.2] d.offload),
      Run.act (Act.all [
        Act.of [.core w.core fun c => { c with streams := c.streams.map fun e =>
          if e.1 = (w.ctx, k) then (e.1, { e.2 with pos := e.2.pos + es.length }) else e }],
        if d.stat then recordCounts task d.tensorId (es.foldl (DElem.count f) {}) else Act.skip,
        recordNonfinite task d.tensorId (es.any fun e => !e.masked && (!e.src.isFinite || e.scale == 0xFF || e.conv.any (·.nonfinite)))])]
  | .tile b _ => Run.act (Act.of [.core w.core fun c => { c with ctxs := tset c.ctxs w.ctx ((c.ctx w.ctx).setHold b) }])
  | _ => Run.ok

/-- The place of a SCATTER store's first position, for which its index must be present, and whether later ones are still to come (R158,
log 64). -/
def scatterReady (s : State) (w : Who) (st : Stream) (n : Nat) : Except Stop Bool :=
  match st.desc.body with
  | .scatter _ _ _ _ _ _ => do
    let at_ := fun (i : Nat) => locate s w st.waits (st.desc.coord (st.pos + i))
    if n = 0 then pure false
    else
      let _ ← at_ 0
      pure ((List.range n).any fun i => match at_ i with
        | .error (.need _ _ _ _) => true
        | _ => false)
  | _ => .ok false

/-- Results into a destination operand: (value, bits in format f). A store stream that would pass its last element faults
and takes none of the extra ones (R240). Only a MOVE or FILL into a tile buffer loads it (R215, R249). -/
def writeOpd (w : Who) (task : Nat) (o : Opd) (f : Fmt) (es : List (Num × Nat)) (loads : Bool := false) : Run :=
  match o with
  | .none => Run.ok
  | .loc v => localPut w.core (8 * v) f (es.map (·.2))
  | .tile b r => Run.all [
      Run.read (fun s => if r * 64 + es.length ≤ 16384 then tileCheck s w b false else .error (.fault 0x3001 none)) fun _ => Run.ok,
      Run.act (tilePut w.core b r (es.map (·.2))),
      Run.act (Act.of [.core w.core fun c => { c with ctxs := tset c.ctxs w.ctx (if loads then (c.ctx w.ctx).setWrote b else (c.ctx w.ctx).setHold b) }])]
  | .slot k =>
    Run.read (fun s => match (s.core w.core).stream w.ctx k with
      | none => .error (.fault 0x3004 none)
      | some st =>
        if 16 / s.ctxCount w.p ≤ k ∨ !st.desc.store ∨ st.desc.cscaled ∨ st.desc.coreFmt ≠ f then .error (.fault 0x3004 none)
        else if !st.ready then .error .stall
        else (scatterReady s w st (Nat.min es.length (st.desc.total - st.pos))).map fun late => (st, (s.task task).any (fun t => t.live.watched st.desc.tensorId), late)) fun x =>
    let st := x.1
    let room := st.desc.total - st.pos
    Run.all [
      if x.2.2 then Run.act (lateRead w.core) else Run.ok,
      Run.each ((es.take room).zipIdx) (fun e => acceptOne w k x.2.1 (st.pos + e.2) e.1.1 e.1.2),
      if room < es.length then Run.fail (.fault 0x3004 none) else Run.ok]

end Sys2Proof.Machine
end

