-- ==== Sys2Proof/Machine/Seq.lean ====
section
/-! DEFINITION. The core sequencer: fetch and issue of an instruction word (R232, R233, R265), the order of slots and loops
(R261), and the CONTROL, SYNC and STAT instructions (R256-R261, R209). -/

namespace Sys2Proof.Machine

/-- "G has reached v" (R207). -/
def gateReached (g v : Nat) : Bool := decide ((g + 2 ^ 32 - v % 2 ^ 32) % 2 ^ 32 < 2 ^ 31)

def State.gate (s : State) (g : Nat) : Nat := s.get F.hostGateValue g
def State.gateHolds (s : State) (g v : Nat) : Bool := gateReached (s.gate g) v
/-- Adds to a gate modulo 2^32 (R208). -/
def gateAdd (g n : Nat) : Act := fun s => [.fld F.hostGateValue g 0 ((s.gate g + n) % 2 ^ 32)]

/-- Slot after an instruction, with the loops whose body ends there (R261). -/
def advLoops : List LoopFrame → Nat → Nat × List LoopFrame
  | [], n => (n, [])
  | f :: r, n =>
    if n = f.start + f.len then
      if 0 < f.left then (f.start, { f with left := f.left - 1 } :: r) else advLoops r n
    else (n, f :: r)

def Ctx.advance (x : Ctx) : Ctx :=
  let r := advLoops x.loops (x.slot + 1)
  { x with slot := r.1, loops := r.2, wait := .none }

def updCtx (c x : Nat) (g : Ctx → Ctx) : Upd := .core c fun k => { k with ctxs := tset k.ctxs x (g (k.ctx x)) }

/-- Data staged before a DEP marker's condition held is fetched again after it, for later tasks too (R172, R173). -/
def dropStaged (c x : Nat) : Upd := .core c fun k => { k with streams := k.streams.map fun e =>
  if e.1.1 = x then (e.1, { e.2 with staged := [], upto := [], ahead := e.2.pos, later := e.2.later.map fun l => { l with ahead := 0, staged := [], upto := [] } }) else e }

/-- The lane of a core in a task (R236). -/
def TaskDesc.lane (t : TaskDesc) (core : Nat) : Nat := (t.mask.filter fun c => decide (c < core)).length

/-- The core may execute its next instruction: it runs a task that waits for nothing, is not halted (R515), and its
partition works (R442, R470). -/
def canRun (s : State) (c x : Nat) : Option Task :=
  let k := s.core c
  let p := s.partOfCore c
  if (k.halted && !k.step) || (s.part p).draining || !s.coreOk c then none
  else match (k.ctx x).task, (k.ctx x).wait with
    | some id, .none => s.task id
    | _, _ => none

/-- What follows a stop of an instruction: a fault of the task, a translation request, or nothing but the wait. -/
def onStop (w : Who) (id : Nat) : Stop → Act
  | .fault code addr => taskFault id code (dieOfCore w.core) w.core addr
  | .ats page => requestAts w.p w.ps page (.task id w.core)
  | .stall | .need _ _ _ _ => Act.skip

/-- Ends a run: its updates and, on a stop, what follows. An instruction that only waits has changed nothing. -/
def settle (w : Who) (id : Nat) (r : Run) : Act := fun s =>
  match r s with
  | (us, none) => us
  | (us, some (.fault c a)) => us ++ onStop w id (.fault c a) (applyAll us s)
  | (_, some e) => onStop w id e s

/-- The word at the running context's slot (R232, R233). -/
def fetchWord (s : State) (w : Who) (t : Task) : Except Stop Nat :=
  let slot := ((s.core w.core).ctx w.ctx).slot
  if 65536 ≤ slot then .error (.fault 0x3005 none)
  else (readRange s w.p w.ps w.core t.desc.bva (t.desc.block + 16 * slot) 16).toExcept.map natOf

def invalid : Stop := .fault 0x3001 none
def mismatch : Stop := .fault 0x3004 none

/-- Fetches and decodes the next instruction of core c when its opcode is `op`: an invalid word faults before any effect
(R265); a word of another listed opcode belongs to another command, which then does nothing. -/
def withInstr (op c : Nat) (body : HInstr → Task → Who → Act) : Act := fun s =>
  let w0 : Who := { p := s.partOfCore c, core := c, ctx := (s.core c).running }
  match canRun s c w0.ctx with
  | none => []
  | some t =>
    let w : Who := { w0 with ps := pasidKey s w0.p t.q }
    match fetchWord s w t with
    | .error e => onStop w t.id e s
    | .ok word =>
      if opcodeOf word = op then
        match decodeWord word with
        | none => onStop w t.id invalid s
        | some i => body i t w s
      else if (layoutOf (opcodeOf word)).isNone then onStop w t.id invalid s
      else []

/-- A single step of a halted core is used up (R515). -/
def stepDone (c : Nat) : Upd := .core c fun k => { k with step := false, halted := k.halted || k.step }

/-- Executes the next instruction of core c: `body` gives its effect, and the slot advances after it. -/
def issue (op c : Nat) (body : HInstr → Task → Who → Run) : Act :=
  withInstr op c fun i t w => settle w t.id ((body i t w).seq (Run.act (Act.of [updCtx w.core w.ctx Ctx.advance, stepDone c])))

/-- Beats that an event ends count under their counter; how many is a matter of time (log 1). -/
def beats (r : RegName) (c : Nat) : Act := fun s => [.add ⟨r, c / 36, c % 36⟩ (Config.freeNat s.free), .draw 1]

/-! ### CONTROL -/

def nopAct (c : Nat) : Act := issue 0x01 c fun _ _ _ => Run.ok

/-- LOOP (R261): the frame is pushed at the slot before its body, so that the advance enters the body. -/
def loopAct (c : Nat) : Act := issue 0x03 c fun i _ w =>
  match i with
  | .loop body n => Run.read (fun s =>
      let x := (s.core w.core).ctx w.ctx
      let stop := x.slot + 1 + body
      if 4 ≤ x.loops.length then .error invalid
      else match x.loops with
        | f :: _ => if f.start + f.len < stop then .error invalid else .ok x
        | [] => .ok x) fun x =>
      Run.act (Act.of [updCtx w.core w.ctx fun y => { y with loops := { start := x.slot + 1, len := body, left := n } :: y.loops }])
  | _ => Run.fail invalid

/-- What a core keeps of its streams when its task ends: persistent ones, back at their start (R175). A core that ends before it has consumed
the whole of a multicast stream has left its group (R170). DESIGN CHOICE (log 58): elements of a block-scaled store whose block is not
whole are dropped unwritten. -/
def Core.endTask (x : Nat) (k : Core) : Core :=
  { k with
    ctxs := tset k.ctxs x {}
    streams := (k.streams.filter fun e => decide (e.1.1 ≠ x) || e.2.desc.persist || e.2.early).map fun e =>
      if e.1.1 = x && !e.2.early then
        (e.1, { e.2 with pos := 0, held := [], ahead := 0, left := decide (e.2.pos < e.2.desc.total), staged := [], upto := [] })
      else e }

/-- Requests of streams whose data nothing takes any more stay outstanding (R166). -/
def dropReads (c : Nat) (hit : Request → Bool) : Upd :=
  .reqs fun l => l.map fun r => if r.core = c ∧ r.members = [] ∧ r.pass = none ∧ r.later = none ∧ hit r then { r with dead := true } else r

/-- Some core of the task waits at a barrier that a core with n barriers has not reached (R209). -/
def barrierAhead (s : State) (t : Task) (n : Nat) : Bool :=
  t.desc.mask.any fun k => (s.core k).ctxs.any fun e => e.2.task == some t.id && decide (n < e.2.barriers) && (match e.2.wait with
    | .barrier _ => true
    | _ => false)

/-- END (R233, R209, R214, R261): the core retires from the task, once its passes are done. -/
def endAct (c : Nat) : Act := withInstr 0x02 c fun _ t w s =>
  let x := (s.core c).ctx w.ctx
  if !x.loops.isEmpty then onStop w t.id invalid s
  else if (s.core c).groups.any (fun g => g.task == t.id) then []
  else if barrierAhead s t x.barriers then onStop w t.id (.fault 0x3015 none) s
  else [.core c (Core.endTask w.ctx), dropReads c (fun r => r.ctx == w.ctx && r.task == t.id), stepDone c,
    .tasks fun l => l.map fun u => if u.id = t.id then { u with retired := (c, x.barriers) :: u.retired } else u]

/-! ### SYNC -/

/-- The gate belongs to the partition (R206). -/
def gateOk (s : State) (p g : Nat) : Bool := s.partOfGate g == p

/-- WAIT (R209): goes on when the condition holds, else the core stalls at it. -/
def waitAct (c : Nat) : Act := withInstr 0x60 c fun i t w s =>
  match i with
  | .wait g v =>
    if !gateOk s w.p g then onStop w t.id invalid s
    else if s.gateHolds g v then [updCtx c w.ctx Ctx.advance, dropStaged c w.ctx, stepDone c]
    else [updCtx c w.ctx fun y => { y with wait := .gate g v }, stepDone c]
  | _ => onStop w t.id invalid s

/-- The gate condition of a stalled WAIT has come to hold (R209). -/
def waitReleaseAct (c x : Nat) : Act := fun s =>
  let k := (s.core c).ctx x
  match k.wait with
  | .gate g v =>
    if s.gateHolds g v then
      [updCtx c x Ctx.advance, dropStaged c x]
    else []
  | _ => []

/-- SIGNAL (R208, R237): lane 0 records an increment of the task. -/
def signalAct (c : Nat) : Act := issue 0x61 c fun i t w =>
  match i with
  | .signal g n => Run.read (fun s => if gateOk s w.p g then .ok () else .error invalid) fun _ =>
      if t.desc.lane w.core = 0 then
        Run.act (Act.of [.tasks fun l => l.map fun u => if u.id = t.id then { u with signals := u.signals ++ [(g, n)] } else u])
      else Run.ok
  | _ => Run.fail invalid

/-- BARRIER (R209, R257): the core waits at its next barrier. Where a core of the mask has already ended short of it, the
task faults. -/
def barrierAct (c : Nat) : Act := withInstr 0x62 c fun i t w s =>
  match i with
  | .barrier id =>
    let n := ((s.core c).ctx w.ctx).barriers + 1
    if t.retired.any (fun r => decide (r.2 < n)) then onStop w t.id (.fault 0x3015 none) s
    else [updCtx c w.ctx fun y => { y with wait := .barrier id, barriers := n }, stepDone c]
  | _ => onStop w t.id invalid s

/-- The contexts that run a task, by core. -/
def taskCtxs (s : State) (t : Task) : List (Nat × Nat × Ctx) :=
  t.desc.mask.flatMap fun c => ((s.core c).ctxs.filter fun e => e.2.task == some t.id).map fun e => (c, e.1, e.2)

/-- The last core of the mask has reached the barrier occurrence (R257). -/
def barrierReleaseAct (id : Nat) : Act := fun s =>
  match s.task id with
  | none => []
  | some t =>
    let cs := taskCtxs s t
    let ids := cs.filterMap fun e => match e.2.2.wait with
      | .barrier i => some i
      | _ => none
    let n := (cs.map fun e => e.2.2.barriers).headD 0
    if ids.length = t.desc.mask.length ∧ cs.all (fun e => e.2.2.barriers == n) ∧ t.desc.mask ≠ [] then
      if ids.all (fun i => i == ids.headD 0) then
        cs.flatMap fun e => [updCtx e.1 e.2.1 Ctx.advance, dropStaged e.1 e.2.1]
      else taskFault id 0x3016 (dieOfCore (t.desc.mask.headD 0)) 0xFF none s
    else []

/-! ### STAT -/

/-- STAT_READ (R258): lane 0 writes visible records, 64 bytes each, as stores of the task. -/
def statReadAct (c : Nat) : Act := issue 0x70 c fun i t w =>
  match i with
  | .statRead first n dva dst => Run.read (fun s =>
      let per := 4096 / s.nParts
      if per < first + n + 1 then .error invalid
      else if t.desc.lane w.core ≠ 0 then .ok []
      else if !covered t.regions dva (dst, 64 * (n + 1), true) then .error (.fault 0x3011 none)
      else .ok ((List.range (n + 1)).map fun k => (dst + 64 * k, s.tstatRec (w.p * per + first + k)))) fun l =>
    Run.each l fun e => taskWrite w 16 t.id dva e.1 e.2
  | _ => Run.fail invalid

/-- The sixteen values of R259. -/
def snapValues (s : State) (c : Nat) : List DWord :=
  let d := c / 36
  let r := fun (n : RegName) => s.reg ⟨n, d, c % 36⟩
  [s.reg ⟨.genRefTime, 0, 0⟩, s.reg ⟨.dieBeatCount, d, 0⟩, r .coreMxPasses, r .coreMxRowBeats, r .coreMxFillWait, r .coreMxDepWait,
   r .coreStallTier1, r .coreStallTier2, r .coreStallRemoteDie, r .coreStallIndex, r .coreStallGate, r .coreStallPeer,
   r .coreCtxSwitches, r .coreStReadBytes, r .coreStWriteBytes, r .coreStMerges]

/-- STAT_SNAP (R259): waits until the core's earlier passes have retired, then writes 128 bytes to local memory. -/
def statSnapAct (c : Nat) : Act := issue 0x71 c fun i _ w =>
  match i with
  | .statSnap d => Run.read (fun s => if !(s.core c).groups.isEmpty then .error .stall else .ok (snapValues s c)) fun vs =>
    match Opd.decode d with
    | some (.loc v) => localWrite w.core (8 * v) (vs.flatMap fun x => bytesOf 8 x.toNat)
    | _ => Run.fail invalid
  | _ => Run.fail invalid

/-- NOP (R260). -/
def execNop (c : CoreIx) (s : State) : Host.Outcome State Fault Refusal := perform (nopAct c) s
/-- END (R260, R261). -/
def execEnd (c : CoreIx) (s : State) : Host.Outcome State Fault Refusal := perform (endAct c) s
/-- LOOP (R260, R261). -/
def execLoop (c : CoreIx) (s : State) : Host.Outcome State Fault Refusal := perform (loopAct c) s
/-- WAIT (R209, R256). -/
def execWait (c : CoreIx) (s : State) : Host.Outcome State Fault Refusal := perform (waitAct c) s
/-- The gate of a stalled WAIT (R209). -/
def execWaitRelease (c : CoreIx) (x : CtxIx) (s : State) : Host.Outcome State Fault Refusal := perform (waitReleaseAct c x) s
/-- SIGNAL (R208, R256). -/
def execSignal (c : CoreIx) (s : State) : Host.Outcome State Fault Refusal := perform (signalAct c) s
/-- BARRIER (R257). -/
def execBarrier (c : CoreIx) (s : State) : Host.Outcome State Fault Refusal := perform (barrierAct c) s
/-- The release of a barrier (R257). -/
def execBarrierRelease (task : Nat) (s : State) : Host.Outcome State Fault Refusal := perform (barrierReleaseAct task) s
/-- STAT_READ (R258). -/
def execStatRead (c : CoreIx) (s : State) : Host.Outcome State Fault Refusal := perform (statReadAct c) s
/-- STAT_SNAP (R259). -/
def execStatSnap (c : CoreIx) (s : State) : Host.Outcome State Fault Refusal := perform (statSnapAct c) s

end Sys2Proof.Machine
end

