-- ==== Sys2Proof/Machine/Matrix.lean ====
section
/-! DEFINITION. Matrix passes: issue (R81-R87, R240-R242, R569), fills and rows (R84, R88), the accumulation contract
(R97-R100), the semiring modes (R104-R106) and let-out (R119-R132). -/

namespace Sys2Proof.Machine

/-! ### Shapes (R81, R86, R569) -/

/-- Ordinal of element (i, j) of a matrix of `cols` columns among the elements that a pass takes. -/
def elemIx (tiled : Bool) (cols i j : Nat) : Nat :=
  if tiled then (i / 16 * ceilDiv cols 16 + j / 16) * 256 + i % 16 * 16 + j % 16 else i * cols + j

/-- Ordinal of tile element (k, n) in the weight stream. -/
def MpassOp.wIx (o : MpassOp) (tiled : Bool) (k n : Nat) : Nat :=
  if o.tw then elemIx tiled o.fmt.kDepth n k else elemIx tiled 64 k n

/-- Ordinal of element k of activation row r in the activation stream. -/
def MpassOp.aIx (o : MpassOp) (tiled : Bool) (r k : Nat) : Nat :=
  if o.ta then elemIx tiled o.m k r else elemIx tiled o.fmt.kDepth r k

def MpassOp.wTaken (o : MpassOp) : Nat := 64 * o.fmt.kDepth
def MpassOp.aTaken (o : MpassOp) (tiled : Bool) : Nat := o.fmt.kDepth * if tiled then ceilDiv o.m 16 * 16 else o.m

/-- The positions that a pass's tiled activation blocks have beyond row M. -/
def MpassOp.aBeyond (o : MpassOp) : List Nat :=
  (List.range (ceilDiv o.m 16 * 16 - o.m)).flatMap fun r => (List.range o.fmt.kDepth).map fun k => o.aIx true (o.m + r) k

/-! ### Ladders (R122, R123, R134) -/

/-- The ladder of a format under let-out control; the last rung is unscaled BF16. -/
def ladderOf (f : Fmt) : List Rung :=
  if f = .int4 ∨ f = .int8 then [⟨.int4, true⟩, ⟨.int8, true⟩, ⟨.bf16, false⟩]
  else [⟨.e2m1, true⟩, ⟨.e2m3, true⟩, ⟨.e4m3, true⟩, ⟨.bf16, false⟩]

/-- The nominal rung of a pass. -/
def nominalRung (f : Fmt) : Nat := ((ladderOf f).findIdx? fun r => r.fmt == f).getD 0

/-- Format and scaling of a pass at a rung; a pass without let-out control runs at its own. -/
def MpassOp.rungOf (o : MpassOp) (rung : Nat) : Rung :=
  if o.scope = .off then ⟨o.fmt, o.scaled⟩ else (ladderOf o.fmt).getD rung ⟨.bf16, false⟩

/-- The runs of the arrays that a pass makes at a rung (R126). -/
def unitsFor (g : PassGroup) : List PassUnit :=
  let r := g.op.rungOf g.rung
  (List.range (g.op.fmt.kDepth / r.fmt.kDepth)).map fun i =>
    { group := g.id, sub := i, fmt := r.fmt, scaled := r.scaled, add := g.op.add || decide (i ≠ 0) }

/-- The target of the quantizer at a rung above the nominal one; the nominal rung converts as its descriptor says. -/
def PassGroup.target (g : PassGroup) : Option Rung :=
  if g.op.scope = .off ∨ g.rung ≤ nominalRung g.op.fmt then none else some (g.op.rungOf g.rung)

/-- A pass at BF16 is never let out (R122). -/
def PassGroup.controlled (g : PassGroup) : Bool := g.op.scope != .off && (g.op.rungOf g.rung).fmt != .bf16

/-! ### Issue (R240-R242, R87, R120) -/

/-- The condition of R87 on one operand: along which dimension its blocks run, and where the share begins. -/
def blockDimOk (d : Desc) (pos dim : Nat) : Bool :=
  match d.body with
  | .linear _ _ => d.blockDim == dim && (if dim = 0 then (d.coord pos).c % 32 == 0 else (d.coord pos).r % 32 == 0)
  | _ => true

/-- The source of a let-out-controlled operand (R120): a quantizer stream from the die buffer of the core's die or from the
core's local memory. -/
def letoutSource (s : State) (w : Who) (st : Stream) (n : Nat) : Except Stop Bool :=
  let d := st.desc
  if !d.quantizing || !(d.memFmt == .fp32 || d.memFmt == .bf16 || d.memFmt == .fp16) then .ok false
  else (List.range n).foldlM (fun ok k => do
    match ← locate s w st (d.coord (st.pos + k)) with
    | .masked => pure ok
    | .at a _ _ =>
      match translate s w.p w.ps d.va a false with
      | .ok l _ => pure (ok && !isHostLoc l && (placeOf l == .buffer (dieOfCore w.core) || placeOf l == .localMem w.core))
      | .fault c => throw (.fault c (some (a, d.va)))
      | .needAts pg => throw (.ats pg)) true

/-- A stream as an issued pass reads it: with what is staged, waiting for the rest (R84). -/
def Stream.forPass (st : Stream) : Stream := { st with strict := true, upto := [], later := [] }

/-- One operand stream of a pass, with the checks of R240 and R242. -/
def passStream (s : State) (w : Who) (slot : Nat) (o : MpassOp) (take : Stream → Nat) : Except Stop Stream :=
  match (s.core w.core).stream w.ctx slot with
  | none => .error mismatch
  | some st =>
    if 16 / s.ctxCount w.p ≤ slot ∨ st.desc.store ∨ st.desc.coreFmt ≠ o.fmt ∨ st.desc.cscaled ≠ o.scaled then .error mismatch
    else if st.desc.total < st.pos + take st then .error mismatch
    else if !st.ready then .error .stall
    else .ok st.forPass

/-- Both operand streams of a pass that may be issued. -/
def passCheck (s : State) (w : Who) (o : MpassOp) : Except Stop (Stream × Stream) := do
  let ws ← passStream s w o.wSlot o (fun _ => o.wTaken)
  let as ← passStream s w o.aSlot o (fun st => o.aTaken st.desc.tiled)
  let c := s.core w.core
  let x := c.ctx w.ctx
  if o.scaled && !(blockDimOk ws.desc ws.pos (if o.tw then 0 else 1) && blockDimOk as.desc as.pos (if o.ta then 1 else 0)) then throw mismatch
  if as.desc.tiled && o.aBeyond.any (fun j => !(as.desc.coord (as.pos + j)).out) then throw mismatch
  if o.scope ≠ .off then
    let a ← letoutSource s w ws o.wTaken
    let b ← letoutSource s w as (o.aTaken as.desc.tiled)
    if !(a && b) then throw mismatch
  if c.bufTaken w.ctx o.buf || (o.scope != .off && o.add && c.bufTaken w.ctx o.buf.other) then throw .stall
  if o.add && !x.wrote o.buf then throw (.fault 0x3014 none)
  pure (ws, as)

/-- The rung at which a pass starts (R131, R134). DESIGN CHOICE (log 61): a ratchet rung earned on the other ladder counts by its number,
and a number past the ladder's end by its last rung. -/
def startRung (s : State) (p : Nat) (t : Task) (o : MpassOp) (wt at_ : Nat) : Nat :=
  if o.scope = .off then 0
  else
    let of := fun (i : Nat) => Nat.max (tget (s.part p).ratchet i {}).rung (tget t.rungs i 0)
    Nat.min (Nat.max (nominalRung o.fmt) (Nat.max (of wt) (of at_))) ((ladderOf o.fmt).length - 1)

/-- The pass accumulates in INT32 (R93). -/
def MpassOp.intKind (o : MpassOp) : Bool :=
  o.semi == .eqCount || o.semi == .gtCount || (!o.scaled && (o.fmt == .int8 || o.fmt == .int4))

/-- MPASS: checked, its operands' streams advanced, its fill and rows scheduled. -/
def mpassAct (c : Nat) : Act := issue 0x10 c fun i t w =>
  match i with
  | .mpass o =>
    Run.read (fun s => (passCheck s w o).map fun x => (x, s.nextId, startRung s w.p t o x.1.desc.tensorId x.2.desc.tensorId)) fun r =>
      let ws := r.1.1
      let as := r.1.2
      let g : PassGroup := { id := r.2.1, task := t.id, ctx := w.ctx, op := o, w := ws, a := as, rung := r.2.2 }
      let adv := fun (e : (Nat × Nat) × Stream) =>
        if e.1 = (w.ctx, o.wSlot) ∧ !e.2.early then (e.1, { e.2 with pos := e.2.pos + o.wTaken })
        else if e.1 = (w.ctx, o.aSlot) ∧ !e.2.early then (e.1, { e.2 with pos := e.2.pos + o.aTaken e.2.desc.tiled })
        else e
      Run.act (Act.of [.newId 1, .core w.core fun k =>
        let x := (k.ctx w.ctx).setWrote o.buf
        let x := if o.scope ≠ .off ∧ o.add then x.setHold o.buf.other else x
        { k with
          streams := k.streams.map adv
          groups := k.groups ++ [g]
          units := k.units ++ unitsFor g
          ctxs := tset k.ctxs w.ctx x
          kindA := if o.buf = .bufA then o.intKind else k.kindA
          kindB := if o.buf = .bufB then o.intKind else k.kindB }])
  | _ => Run.fail invalid

/-! ### Counts and verdicts (R115, R124, R125, R127) -/

/-- Elements of a tile that the quantizer counts: those that are not masked. -/
def liveElems (s : State) (w : Who) (st : Stream) (ixs : List Nat) : Except Stop Nat :=
  ixs.foldlM (fun n j => do
    match ← locate s w st (st.desc.coord (st.pos + j)) with
    | .masked => pure n
    | .at _ _ _ => pure (n + 1)) 0

/-- All elements of a pass's weight operand, and of its activation operand. DESIGN CHOICE (log 62): a let-out tile that runs above its nominal
rung is the whole operand of the pass as its FMT counts K, over all its runs. -/
def PassGroup.wAll (g : PassGroup) : List Nat :=
  (List.range g.op.fmt.kDepth).flatMap fun k => (List.range 64).map fun n => g.op.wIx g.w.desc.tiled k n
def PassGroup.aAll (g : PassGroup) : List Nat :=
  (List.range g.op.m).flatMap fun r => (List.range g.op.fmt.kDepth).map fun k => g.op.aIx g.a.desc.tiled r k

/-- Saturated and zeroed elements of a list (R115). -/
def markSums (es : List DElem) : Nat × Nat :=
  (es.filter (fun e => !e.masked && e.conv.any (·.saturated))).length |> fun a =>
    (a, (es.filter (fun e => !e.masked && e.conv.any (·.zeroed))).length)

/-- A count exceeds its limit (R124). -/
def overLimit (n limit e : Nat) : Bool := decide (limit * e < n * 1024)

/-- Counts of one operand's elements joined to a pass's sums, and the verdict where a limit is exceeded. -/
def PassGroup.count (g : PassGroup) (weight : Bool) (es : List DElem) (total satLim zeroLim : Nat) : PassGroup :=
  let m := markSums es
  let f := (g.op.rungOf g.rung).fmt
  let k := g.counts
  let bad := (es.filter fun e => !e.masked && e.conv.any (·.nonfinite)).length
  let none_ := (es.filter (·.zeroBlock)).length
  let k := if weight then { k with wSat := k.wSat + m.1, wZero := k.wZero + m.2, wNonfinite := k.wNonfinite + bad, wZeroBlocks := k.wZeroBlocks + none_ }
    else { k with aSat := k.aSat + m.1, aZero := k.aZero + m.2, aNonfinite := k.aNonfinite + bad, aZeroBlocks := k.aZeroBlocks + none_ }
  let out := g.controlled && (if weight then overLimit k.wSat satLim total || overLimit k.wZero zeroLim total
    else overLimit k.aSat satLim total || overLimit k.aZero zeroLim total)
  { g with
    counts := k
    outW := g.outW || (out && weight)
    outA := g.outA || (out && !weight)
    verdict := if out then some true else g.verdict
    statsW := if weight then es.foldl (DElem.count f) g.statsW else g.statsW
    statsA := if weight then g.statsA else es.foldl (DElem.count f) g.statsA }

def setGroup (c : Nat) (g : PassGroup) : Upd := .core c fun k => { k with groups := k.groups.map fun h => if h.id = g.id then g else h }
def setUnit (c : Nat) (u : PassUnit) : Upd :=
  .core c fun k => { k with units := k.units.map fun h => if h.group = u.group ∧ h.sub = u.sub then u else h }

def groupOf (k : Core) (u : PassUnit) : Option PassGroup := k.groups.find? fun g => g.id == u.group

def groupWho (s : State) (c : Nat) (g : PassGroup) : Who :=
  { p := s.partOfCore c, core := c, ctx := g.ctx, pass := some g.id, ps := match s.task g.task with
      | some t => pasidKey s (s.partOfCore c) t.q
      | none => 0 }

def loLimits (s : State) (c : Nat) : Nat × Nat :=
  (s.get F.telLoLimitsLetoutSatLimit (s.partOfCore c), s.get F.telLoLimitsLetoutZeroLimit (s.partOfCore c))

/-- What the delivery of a pass's elements leaves: kept scales (R154) and the NONFINITE mark of a watched stream, set also where a block's
scale 0xFF makes its elements NaN (R59, R303). DESIGN CHOICE (log 59): the scale of a block whose positions are all masked is not written. -/
def passDelivered (w : Who) (g : PassGroup) (slot : Nat) (st : Stream) (ixs : List Nat) (es : List DElem) : Run :=
  let d := st.desc
  let keep := if g.target.isNone && d.quantizing && d.scaleSrc == 0 && d.scaleBase != 0 then
      ((ixs.zip es).filterMap fun e => if e.2.masked then none else some (d.scaleBase + d.deliveredScale (d.coord (st.pos + e.1)), e.2.scale)).eraseDups
    else []
  Run.all [
    Run.each keep (fun e => taskWrite w slot g.task d.va e.1 [BitVec.ofNat 8 e.2] d.offload),
    Run.act (recordNonfinite g.task d.tensorId (es.any fun e => !e.masked && (!e.src.isFinite || e.scale == 0xFF || e.conv.any (·.nonfinite))))]

/-- An earlier pass of the core may still write scales that this one reads: it waits for them (R10, log 64). -/
def PassGroup.hazard (k : Core) (g : PassGroup) : Bool :=
  k.groups.any fun h => decide (h.id < g.id) && [h.w.desc, h.a.desc].any fun d => d.extents.any fun e => e.2.2 &&
    [g.w.desc, g.a.desc].any fun f => f.va != d.va || f.extents.any fun r => !r.2.2 && decide (r.1 < e.1 + e.2.1 ∧ e.1 < r.1 + r.2.1)

/-- Elements of one operand of a pass at its rung. -/
def passElems (s : State) (w : Who) (g : PassGroup) (st : Stream) (ixs : List Nat) : Except Stop (List DElem) :=
  ixs.mapM fun j => deliverAt s w st g.target (st.pos + j)

/-! ### Fill (R84, R85) -/

/-- Weight elements of a run of the arrays, row-major. -/
def PassUnit.wIxs (u : PassUnit) (g : PassGroup) : List Nat :=
  (List.range u.fmt.kDepth).flatMap fun k => (List.range 64).map fun n => g.op.wIx g.w.desc.tiled (u.sub * u.fmt.kDepth + k) n

/-- Activation elements of a run's next row. -/
def PassUnit.aIxs (u : PassUnit) (g : PassGroup) : List Nat :=
  (List.range u.fmt.kDepth).map fun i => g.op.aIx g.a.desc.tiled u.rows (u.sub * u.fmt.kDepth + i)

/-- The next tile to fill: the first empty one, once the run before it has begun its rows (R85). -/
def nextFill : List PassUnit → Bool → Option PassUnit
  | [], _ => none
  | u :: r, begun => if u.weights.isNone then (if begun then some u else none) else nextFill r (decide (0 < u.rows))

/-- FILL_COMPLETE: once the tile's elements and scales are present (R84); the verdict falls here where the weight tile lets out. -/
def fillCompleteAct (c : Nat) : Act := fun s =>
  let k := s.core c
  if !coreOn s c then []
  else match nextFill k.units true with
    | none => []
    | some u =>
      match groupOf k u with
      | none => []
      | some g =>
        let w := groupWho s c g
        let ixs := u.wIxs g
        let lim := loLimits s c
        if g.verdict = some true ∨ g.hazard k then []
        else settle w g.task (Run.read (fun s => do
            let es ← passElems s w g g.w ixs
            let n ← if g.controlled then liveElems s w { g.w with strict := false } g.wAll else pure 0
            pure (es, n)) fun r =>
          Run.all [
            passDelivered w g g.op.wSlot g.w ixs r.1,
            Run.act (Act.of [setUnit c { u with weights := some r.1 }, setGroup c (if u.sub = 0 then g.count true r.1 r.2 lim.1 lim.2 else g)])]) s
where
  /-- The partition lets its cores work (R442, R470, R482). -/
  coreOn (s : State) (c : Nat) : Bool := !(s.part (s.partOfCore c)).draining && s.coreOk c

/-! ### Group sums (R97-R100, R104-R106) -/

/-- The exact term of a cell operation. -/
def semiTerm (o : Semi) (a w : Num) : Num :=
  match o with
  | .mulAdd => Num.mul a w
  | .addMin | .addMax => Num.add a w
  | .absDiffAdd => (Num.sub a w).abs
  | .sqDiffAdd => let d := Num.sub a w; Num.mul d d
  | .eqCount => if Num.eq a w then numOne else .zero false
  | .gtCount => if Num.lt w a then numOne else .zero false

/-- One rounding to FP32, an overflow to infinity (R99). -/
def roundAcc (x : Num) : Num := roundFp32 { ovfInf := true } x

/-- Truncation of a term to the window of 48 bits below the largest exponent e: floor of |x| / 2^(e - 48), signed. -/
def windowInt (e : Int) (x : Num) : Int :=
  match x with
  | .fin neg n d k =>
    let p := scalePow n d (k - (e - 48))
    let q : Int := ((p.1 / p.2 : Nat) : Int)
    if neg then -q else q
  | _ => 0

/-- The exponent of a term; none for a zero. -/
def termExp : Num → Option Int
  | .fin _ n d e => some (floorLog2 n d e)
  | _ => none

/-- Exponent of the scales of a group with the factor f of R99. -/
def scaleExp (f : Fmt) (sa sw : Nat) : Int :=
  (sa : Int) - 127 + (sw : Int) - 127 - (if f = .int8 then 12 else if f = .int4 then 4 else 0)

/-- The floating group sum of R99 from its terms that are not masked. -/
def groupSum (f : Fmt) (scaled : Bool) (sa sw : Nat) (ts : List Num) : Num :=
  if scaled ∧ (sa = 0xFF ∨ sw = 0xFF) then .nan
  else if ts.any Num.isNan ∨ (ts.any (fun t => t == .inf false) ∧ ts.any (fun t => t == .inf true)) then .nan
  else match ts.find? fun t => !t.isFinite with
    | some t => t
    | none =>
      match (ts.filterMap termExp).max? with
      | none => if ts.all Num.negZero then .zero true else .zero false
      | some e =>
        let v := (ts.map (windowInt e)).foldl (· + ·) 0
        let k := e - 48 + (if scaled then scaleExp f sa sw else 0)
        if v = 0 then .zero false else roundAcc (.fin (decide (v < 0)) v.natAbs 1 k)

/-- The value of one group, none where every term is masked. DESIGN CHOICE (log 63): where a group of 16 positions straddles two scale blocks,
as a COUNT_0 that is no multiple of 32 lets a LINEAR stream do, the scales of its first pair that is not masked hold for the whole group. -/
def groupValue (o : MpassOp) (f : Fmt) (scaled : Bool) (ps : List (DElem × DElem)) : Option Num :=
  let live := ps.filter fun p => !p.1.masked && !p.2.masked
  match live with
  | [] => none
  | (a0, w0) :: _ =>
    let ts := live.map fun p => semiTerm o.semi (f.decode p.1.bits) (f.decode p.2.bits)
    some (match o.semi with
      | .addMin => let m := ts.foldl Num.min (ts.headD .nan); if o.intKind then m else roundAcc m
      | .addMax => let m := ts.foldl Num.max (ts.headD .nan); if o.intKind then m else roundAcc m
      | _ => if o.intKind then Num.sum ts else groupSum f scaled a0.scale w0.scale ts)

/-- A group's value joins an accumulator (R99, R100, R105). -/
def joinAcc (o : MpassOp) (acc : Option Num) (g : Num) : Num :=
  match acc with
  | none => g
  | some a =>
    match o.semi with
    | .addMin => Num.min a g
    | .addMax => Num.max a g
    | _ => if o.intKind then Fmt.int32.decode (Fmt.int32.convert { sat := o.sat } (Num.add a g)).bits else roundAcc (Num.add a g)

/-- The identity of an element whose every position is masked (R104). -/
def semiIdentity (o : MpassOp) : Num :=
  match o.semi with
  | .addMin => if o.intKind then .ofInt 0x7FFFFFFF else .inf false
  | .addMax => if o.intKind then .ofInt (-0x80000000) else .inf true
  | _ => .zero false

/-- The 32 bits of an element after its groups have joined it (R94, R95). -/
def accElem (o : MpassOp) (add : Bool) (old : Nat) (gs : List Num) : Nat :=
  let f : Fmt := if o.intKind then .int32 else .fp32
  match add, gs with
  | true, [] => old
  | _, _ =>
    let start := if add then some (f.decode old) else none
    let v := gs.foldl (fun a g => some (joinAcc o a g)) start
    (f.convert { ovfInf := true } (v.getD (semiIdentity o))).bits

/-- The group values of one activation row in every column. -/
def rowSums (o : MpassOp) (u : PassUnit) (row weights : List DElem) : List (List Num) :=
  (List.range 64).map fun n => (List.range (u.fmt.kDepth / 16)).filterMap fun g =>
    groupValue o u.fmt u.scaled ((List.range 16).map fun k => (row.getD (16 * g + k) {}, weights.getD ((16 * g + k) * 64 + n) {}))

/-! ### Rows (R88, R96, R128, R129) -/

/-- The run of the arrays whose row enters next. -/
def nextRows (k : Core) : Option PassUnit :=
  k.units.find? fun u => match groupOf k u with
    | some g => decide (u.rows < g.op.m)
    | none => false

/-- An earlier pass keeps this one's rows out (R96, R128, R129). -/
def rowBlocked (k : Core) (g : PassGroup) : Bool :=
  (k.groups.takeWhile fun h => h.id != g.id).any fun h =>
    let ctl := h.op.scope != .off && h.verdict != some false
    (ctl && (h.op.buf == g.op.buf || (h.op.add && h.op.buf.other == g.op.buf))) ||
      (g.op.scope != .off && g.op.add && h.op.buf == g.op.buf.other)

/-- ROW_ADMIT: the row is quantized and counted; unless it lets the pass out, it enters the arrays. `parityError` is a parity
error of the fill path or of a cell's weight (R477). -/
def rowAdmitAct (c : Nat) (parityError : Bool) : Act := fun s =>
  let k := s.core c
  let on := !(s.part (s.partOfCore c)).draining && s.coreOk c
  match nextRows k with
  | none => []
  | some u =>
    match groupOf k u, u.weights with
    | some g, some ws =>
      let w := groupWho s c g
      if !on || g.verdict == some true || rowBlocked k g || g.hazard k then []
      else if parityError then taskFault g.task 0x1006 (dieOfCore c) c none s
      else
        let lim := loLimits s c
        let ixs := u.aIxs g
        let last := decide (u.rows + 1 = g.op.m) && decide ((u.sub + 1) * u.fmt.kDepth = g.op.fmt.kDepth)
        settle w g.task (Run.read (fun s => do
            let es ← passElems s w g g.a ixs
            let n ← if g.controlled then liveElems s w { g.a with strict := false } g.aAll else pure 0
            let nw ← if g.controlled && u.sub != 0 && u.rows == 0 then liveElems s w { g.w with strict := false } g.wAll else pure 0
            pure (es, n, nw)) fun r =>
          let g0 := if u.sub ≠ 0 ∧ u.rows = 0 then g.count true ws r.2.2 lim.1 lim.2 else g
          let g1 := if g0.verdict = some true then g0 else g0.count false r.1 r.2.1 lim.1 lim.2
          if g1.verdict = some true then Run.act (Act.of [setGroup c g1])
          else Run.all [
            passDelivered w g g.op.aSlot g.a ixs r.1,
            Run.act (Act.of [
              setUnit c { u with rows := u.rows + 1, results := u.results ++ [rowSums g.op u r.1 ws] },
              setGroup c (if last then { g1 with verdict := some false } else g1),
              .add ⟨.coreMxRowBeats, c / 36, c % 36⟩ 1])]) s
    | _, _ => []

/-! ### Results (R88, R92, R94, R128) -/

/-- The rows of a finished run joined to its buffer; with ADD under let-out control the first run of a pass first copies the
rows it changes into the other buffer. -/
def Core.writeRows (k : Core) (g : PassGroup) (u : PassUnit) : Core :=
  u.results.zipIdx.foldl (fun (k : Core) e =>
    let old := k.tileRow g.op.buf e.2
    let k := if g.op.scope ≠ .off ∧ g.op.add ∧ u.sub = 0 then k.setTileRow g.op.buf.other e.2 old else k
    k.setTileRow g.op.buf e.2 (e.1.zipIdx.map fun x => accElem g.op u.add (old.getD x.2 0) x.1)) k

/-- A kept pass enters the records of its task (R137, R140): the rung at which it was kept, for both its tensors, and which of them let out
(R135). DESIGN CHOICE (log 60): a pass whose operands name one tensor counts once in its LETOUTS. -/
def passKept (c : Nat) (g : PassGroup) : Act := fun _ =>
  let ctl := g.op.scope != .off
  let let' := decide (0 < g.letouts)
  let reach := fun (t : Task) (hit : Bool) (i : Nat) =>
    if ctl then { t with reached := tset t.reached i (Nat.max (tget t.reached i 0) g.rung), outs := if hit && let' then natInsert t.outs i else t.outs } else t
  let lo := fun (x : TensorCounts) => { x with letouts := if let' then 1 else 0 }
  let w := g.w.desc
  let a := g.a.desc
  let same := w.tensorId == a.tensorId && w.stat && a.stat
  [.tasks fun l => l.map fun t => if t.id = g.task then
      let t := reach (reach t g.outW w.tensorId) g.outA a.tensorId
      { t with controlled := t.controlled + (if ctl then 1 else 0),
               letoutPasses := t.letoutPasses + (if let' then 1 else 0) } else t] ++
  (if w.stat then recordCounts g.task w.tensorId (lo g.statsW) {} else []) ++
  (if a.stat then recordCounts g.task a.tensorId { g.statsA with letouts := if let' && !same then 1 else 0 } {} else []) ++
  [.core c fun k => { k with groups := k.groups.filter fun h => decide (h.id ≠ g.id) }]

/-- PASS_LAST_RESULT: the oldest run of the arrays is done; its buffer is readable when its pass is. `tileError` is an uncorrectable error
met in the elements that the results are added to (R477). -/
def passLastResultAct (c : Nat) (tileError : Bool) : Act := fun s =>
  let k := s.core c
  match k.units with
  | [] => []
  | u :: rest =>
    match groupOf k u with
    | none => []
    | some g =>
      if u.rows ≠ g.op.m ∨ g.verdict = some true then []
      else if tileError && u.add then taskFault g.task 0x1003 (dieOfCore c) c none s
      else Act.all [
        Act.of [.core c fun k => { k.writeRows g u with units := (k.units.drop 1) }],
        Act.when (fun s => decide (partPower s (s.partOfCore c) ≤ 1)) (Act.count .coreMxPasses (c / 36) (c % 36) 1),
        if rest.any (fun v => v.group == g.id) then Act.skip else passKept c g] s

/-! ### Repeat and restart (R126-R132) -/

/-- The pass whose let-out is to be carried out, where it has the scope. -/
def letOut (k : Core) (sc : Scope) : Option PassGroup := k.groups.find? fun g => g.verdict == some true && g.op.scope == sc

/-- The tile buffers after the narrow rows have drained and been rolled back (R128, R130). -/
def Core.rollback (k : Core) (g : PassGroup) : Core :=
  if !g.op.add then k
  else
    match k.units.find? fun u => u.group == g.id && u.sub == 0 with
    | some u => (List.range u.rows).foldl (fun (k : Core) r => k.setTileRow g.op.buf.other r (k.tileRow g.op.buf r)) k
    | none => (List.range g.op.m).foldl (fun (k : Core) r => k.setTileRow g.op.buf r (k.tileRow g.op.buf.other r)) k

/-- LETOUT_TILE_REPEAT (R126). -/
def tileRepeatAct (c : Nat) : Act := fun s =>
  match letOut (s.core c) .tile with
  | none => []
  | some g =>
    let h : PassGroup := { g with rung := g.rung + 1, counts := {}, verdict := none, letouts := g.letouts + 1, statsW := {}, statsA := {} }
    [.core c fun k =>
      let k := k.rollback g
      { k with
        groups := k.groups.map fun x => if x.id = g.id then h else x
        units := (k.units.filter fun u => decide (u.group < g.id)) ++ unitsFor h ++ (k.units.filter fun u => decide (g.id < u.group)) }]

/-- A task starts over with tensors at new rungs (R131). -/
def restartTask (id : Nat) (rungs : List (Nat × Nat)) : Act :=
  (discardRun id).seq (Act.of [.tasks fun l => l.map fun t => if t.id = id then
    { t with started := [], retired := [], signals := [], collectives := [], restarts := t.restarts + 1, letoutPasses := 0, controlled := 0,
             rungs := rungs.foldl (fun m e => tset m e.1 (Nat.max (tget m e.1 0) e.2)) t.rungs, reached := [], outs := [], stats := [], nonfinite := false } else t])

/-- LETOUT_LAYER_RESTART (R131, R220). The tensors of the tiles that exceeded a limit go to the rung above the one at which
they ran. -/
def layerRestartAct (c : Nat) : Act := fun s =>
  match letOut (s.core c) .layer with
  | none => []
  | some g =>
    match s.task g.task with
    | none => []
    | some t =>
      if t.desc.nonReplayable then taskFault t.id 0x3018 (dieOfCore c) c none s
      else restartTask t.id ((if g.outW then [(g.w.desc.tensorId, g.rung + 1)] else []) ++ (if g.outA then [(g.a.desc.tensorId, g.rung + 1)] else [])) s

/-- MPASS (R241, R242). -/
def execMpass (c : CoreIx) (s : State) : Host.Outcome State Fault Refusal := perform (mpassAct c) s
/-- A weight tile is filled (R84). -/
def execFillComplete (c : CoreIx) (s : State) : Host.Outcome State Fault Refusal := perform (fillCompleteAct c) s
/-- An activation row enters the arrays (R88). -/
def execRowAdmit (c : CoreIx) (parityError : Bool) (s : State) : Host.Outcome State Fault Refusal := perform (rowAdmitAct c parityError) s
/-- A pass's last result is written (R88). -/
def execPassLastResult (r : TileRead) (s : State) : Host.Outcome State Fault Refusal := perform (passLastResultAct r.core r.tileError) s
/-- A let-out pass is repeated (R126). -/
def execLetoutTileRepeat (c : CoreIx) (s : State) : Host.Outcome State Fault Refusal := perform (tileRepeatAct c) s
/-- A let-out restarts its task (R131). -/
def execLetoutLayerRestart (c : CoreIx) (s : State) : Host.Outcome State Fault Refusal := perform (layerRestartAct c) s

end Sys2Proof.Machine
end

