-- ==== Sys2Proof/Machine/Vector.lean ====
section
/-! DEFINITION. The vector unit's general instructions and MOVE and FILL (spec 08_vector_sets_graphs R267-R277,
07_instruction_encoding R243-R249). -/

namespace Sys2Proof.Machine

/-- An integer result has one zero (R268, R70). -/
def intZero (f : Fmt) (x : Num) : Num := if f.vecInt && x.isZero then .zero false else x

/-- The exact result of a binary operation on decoded sources (R244, R268). -/
def binExact (f : Fmt) (func : Nat) (x y : Num) (bx byy : Nat) : Num :=
  let b2 := fun (b : Bool) => if b then numOne else .zero false
  intZero f (match func with
    | 0 => Num.add x y
    | 1 => Num.sub x y
    | 2 => Num.mul x y
    | 3 => Num.div x y
    | 4 => Num.min x y
    | 5 => Num.max x y
    | 6 => b2 (Num.eq x y)
    | 7 => b2 (!Num.eq x y)
    | 8 => b2 (Num.lt x y)
    | 9 => b2 (Num.le x y)
    | 10 => b2 (Num.lt y x)
    | 11 => b2 (Num.le y x)
    | 12 => f.decode (bx &&& byy)
    | 13 => f.decode (bx ||| byy)
    | _ => f.decode (bx ^^^ byy))

/-- The result of a unary operation before its conversion into DFMT; EXP, LOG, TANH and SIGMOID pass through FP32 first
(R268). -/
def unValue (f : Fmt) (mode : ConvMode) (func : Nat) (x : Num) : Num :=
  intZero f (match func with
    | 0 => x.neg
    | 1 => x.abs
    | 2 => roundFp32 mode (fnExp x)
    | 3 => roundFp32 mode (fnLog x)
    | 4 => fnRsqrt x
    | 5 => fnSqrt x
    | 6 => fnRecip x
    | 7 => roundFp32 mode (fnTanh x)
    | 8 => roundFp32 mode (fnSigmoid x)
    | _ => Num.mul x x)

/-- The conversions of an instruction into its destination: into a GRAD16 buffer, a watched FP16 store, with OVF = INF whatever its field says
(R67, R301). -/
def dstMode (s : State) (w : Who) (t : Task) (dst : Opd) (m : ConvMode) : ConvMode :=
  match dst with
  | .slot k => match (s.core w.core).stream w.ctx k with
    | some st => { m with ovfInf := m.ovfInf || (st.desc.store && st.desc.memFmt == .fp16 && t.live.watched st.desc.tensorId) }
    | none => m
  | _ => m

/-- Goes on with an instruction's conversion mode. -/
def withMode (w : Who) (t : Task) (dst : Opd) (m : ConvMode) (k : ConvMode → Run) : Run := fun s => k (dstMode s w t dst m) s

/-- A result converted into DFMT, as the value it then holds and its bits. -/
def toDst (f : Fmt) (mode : ConvMode) (x : Num) : Num × Nat :=
  let b := (f.convert mode x).bits
  (f.decode b, b)

/-- One accumulation step of a float strand: rounded once to FP32, an overflow as the instruction's OVF says (R66, R272). -/
def combineFp32 (m : ConvMode) : Option Num → Num → Option Num
  | none, t => some (roundFp32 m t)
  | some a, t => some (roundFp32 m (Num.add a t))

/-- A strand of R272: terms in order. -/
def strand (m : ConvMode) (ts : List Num) : Option Num := ts.foldl (combineFp32 m) none

/-- Pairs of strands joined until one is left (R272): empty + y = y. -/
def joinStrands (m : ConvMode) : Nat → List (Option Num) → Option Num
  | 0, l => l.headD none
  | n + 1, l => joinStrands m n (pairs l)
where
  pairs : List (Option Num) → List (Option Num)
    | a :: b :: r => (match a, b with
      | some x, some y => combineFp32 m (some x) y
      | none, y => y
      | x, none => x) :: pairs r
    | l => l

/-- The fixed-order float sum of R272. -/
def sum64 (m : ConvMode) (ts : List Num) : Num :=
  let strands := (List.range 64).map fun s => strand m ((ts.zipIdx.filter fun p => p.2 % 64 == s).map (·.1))
  (joinStrands m 6 strands).getD (.zero false)

/-- VRED (R272). -/
def vredValue (o : VecOp) (xs : List Num) : Num :=
  let ts := if o.func = 1 then xs.map fun x => Num.mul x x else xs
  match o.func with
  | 0 | 1 => if o.sfmt.vecInt then Num.sum ts else sum64 o.mode ts
  | 2 => xs.foldl Num.min (xs.headD .nan)
  | 3 => xs.foldl Num.max (xs.headD .nan)
  | _ => (xs.map Num.abs).foldl Num.max ((xs.headD .nan).abs)

/-- The identity of an empty segment (R273). -/
def segIdentity (o : VecOp) : Num :=
  match o.func with
  | 1 => (match o.dfmt.intRange with
    | some r => .ofInt r.2
    | none => .inf false)
  | 2 => (match o.dfmt.intRange with
    | some r => .ofInt r.1
    | none => .inf true)
  | _ => .zero false

/-- One column of one segment, rows ascending (R273). -/
def segValue (o : VecOp) (xs : List Num) : Num :=
  if xs.isEmpty then segIdentity o
  else
    let sum := if o.sfmt.vecInt then Num.sum xs else (strand o.mode xs).getD (.zero false)
    match o.func with
    | 0 => sum
    | 1 => xs.foldl Num.min (xs.headD .nan)
    | 2 => xs.foldl Num.max (xs.headD .nan)
    | _ => Num.div sum (.ofInt xs.length)

/-- Source operands, with their formats and element counts (R243-R246). -/
def VecOp.sources (o : VecOp) : List (Opd × Fmt × Nat) :=
  match o.kind with
  | .vbin => [(o.a, o.sfmt, o.count), (o.b, o.sfmt, if o.bscal then 1 else o.count)]
  | .vun | .vred => [(o.a, o.sfmt, o.count)]
  | .vfma => [(o.a, o.sfmt, o.count), (o.b, o.sfmt, if o.bscal then 1 else o.count), (o.c, o.sfmt, o.count)]
  | .vseg | .vscatadd => [(o.a, o.sfmt, o.count * o.rowElems), (o.b, .uint32, o.count)]
  | .vtopk => [(o.a, o.sfmt, o.srcElems)]
  | .vsort => []
  | .vhist => [(o.a, .uint32, o.count), (o.b, .uint32, if o.b.isNone then 0 else o.count)]

/-- Each source with the number of elements that the sources before it take from its slot: a slot named twice gives its elements in operand
order (log 67). -/
def withOffsets : List (Opd × Fmt × Nat) → List (Opd × Fmt × Nat) → List ((Opd × Fmt × Nat) × Nat)
  | _, [] => []
  | before, o :: r =>
    let n := match o.1 with
      | .slot _ => ((before.filter fun x => x.1 == o.1).map (·.2.2)).sum
      | _ => 0
    (o, n) :: withOffsets (o :: before) r

/-- Sources of an instruction read in order, then consumed; `k` writes the results. -/
def withSources (w : Who) (t : Task) (os : List (Opd × Fmt × Nat)) (k : List (List DElem) → Run) : Run :=
  Run.read (fun s => (withOffsets [] os).mapM fun o => readOpd s w o.1.1 o.1.2.1 o.1.2.2 o.2) fun es =>
    Run.all [
      Run.each (os.zip es) (fun p => consumeOpd w t.id p.1.1 p.1.2.1 p.2),
      Run.act (Act.count .coreVecElems (w.core / 36) (w.core % 36) ((es.map List.length).foldl (· + ·) 0)),
      Run.act (beats .coreVecBusy w.core),
      k es]

def decodeEs (f : Fmt) (es : List DElem) : List Num := es.map fun e => f.decode e.bits

/-- The instruction reads an output tile buffer. -/
def VecOp.readsTile (o : VecOp) : Bool := o.sources.any fun x => x.1.isTile

/-- A vector instruction of one opcode. `tileError` is an uncorrectable error met in a tile buffer that it reads (R477). -/
def vecBody (k : VecKind) (tileError : Bool) (f : VecOp → Task → Who → Run) : HInstr → Task → Who → Run := fun i t w =>
  match i with
  | .vec o =>
    if o.kind ≠ k then Run.fail invalid
    else if tileError && o.readsTile then Run.fail (.fault 0x1003 none)
    else f o t w
  | _ => Run.fail invalid

def vbinRun (o : VecOp) (t : Task) (w : Who) : Run :=
  withSources w t o.sources fun es => withMode w t o.dst o.mode fun m =>
    let a := es.getD 0 []
    let b := es.getD 1 []
    let bb := if o.bscal then List.replicate a.length (b.headD {}) else b
    writeOpd w t.id o.dst o.dfmt ((a.zip bb).map fun p =>
      toDst o.dfmt m (binExact o.sfmt o.func (o.sfmt.decode p.1.bits) (o.sfmt.decode p.2.bits) p.1.bits p.2.bits))

def vunRun (o : VecOp) (t : Task) (w : Who) : Run :=
  withSources w t o.sources fun es => withMode w t o.dst o.mode fun m =>
    writeOpd w t.id o.dst o.dfmt ((decodeEs o.sfmt (es.getD 0 [])).map fun x => toDst o.dfmt m (unValue o.sfmt o.mode o.func x))

def vfmaRun (o : VecOp) (t : Task) (w : Who) : Run :=
  withSources w t o.sources fun es => withMode w t o.dst o.mode fun m =>
    let a := decodeEs o.sfmt (es.getD 0 [])
    let b := decodeEs o.sfmt (es.getD 1 [])
    let bb := if o.bscal then List.replicate a.length (b.headD .nan) else b
    let c := decodeEs o.sfmt (es.getD 2 [])
    writeOpd w t.id o.dst o.dfmt (((a.zip bb).zip c).map fun p => toDst o.dfmt m (Num.add (Num.mul p.1.1 p.1.2) p.2))

def vredRun (o : VecOp) (t : Task) (w : Who) : Run :=
  withSources w t o.sources fun es => withMode w t o.dst o.mode fun m =>
    writeOpd w t.id o.dst o.dfmt [toDst o.dfmt m (intZero o.sfmt (vredValue o (decodeEs o.sfmt (es.getD 0 []))))]

/-- Identifiers that never decrease (R273). -/
def nonDecreasing : List Nat → Bool
  | a :: b :: r => decide (a ≤ b) && nonDecreasing (b :: r)
  | _ => true

/-- A tile buffer that the rows of a VSEG would overrun is an invalid encoding, found before the instruction has any effect (R239, R265). -/
def vsegFits (s : State) (w : Who) (o : VecOp) : Except Stop Unit :=
  match o.dst with
  | .tile _ r => do
    let es ← (withOffsets [] o.sources).mapM fun e => readOpd s w e.1.1 e.1.2.1 e.1.2.2 e.2
    let ids := (es.getD 1 []).map (·.bits)
    if nonDecreasing ids && decide (16384 < r * 64 + (ids.getLastD 0 - ids.headD 0 + 1) * o.rowElems) then .error invalid else pure ()
  | _ => .ok ()

def vsegRun (o : VecOp) (t : Task) (w : Who) : Run :=
  let wd := o.rowElems
  Run.read (fun s => vsegFits s w o) fun _ => withSources w t o.sources fun es => withMode w t o.dst o.mode fun m =>
    let xs := decodeEs o.sfmt (es.getD 0 [])
    let ids := (es.getD 1 []).map (·.bits)
    let first := ids.headD 0
    let last := ids.getLastD 0
    if !nonDecreasing ids then Run.fail (.fault 0x3012 none)
    else
      let rows := (List.range (last - first + 1)).map fun d =>
        let rs := (ids.zipIdx.filter fun p => p.1 == first + d).map (·.2)
        (List.range wd).map fun c => toDst o.dfmt m (intZero o.sfmt (segValue o (rs.map fun r => xs.getD (r * wd + c) .nan)))
      writeOpd w t.id o.dst o.dfmt rows.flatten

def vscataddRun (o : VecOp) (t : Task) (w : Who) : Run :=
  let wd := o.rowElems
  let size := o.dfmt.bits / 8
  withSources w t o.sources fun es =>
    let xs := decodeEs o.sfmt (es.getD 0 [])
    let ids := (es.getD 1 []).map (·.bits)
    match o.dst with
    | .loc v =>
      Run.each ids.zipIdx fun p =>
        if p.1 = noIndex then Run.ok
        else Run.each (List.range wd) fun c =>
          let off := 8 * v + (p.1 * wd + c) * size
          Run.read (fun s => localRead s w.core off size) fun old =>
            localWrite w.core off (bytesOf size (toDst o.dfmt o.mode (intZero o.sfmt (Num.add (o.dfmt.decode (natOf old)) (xs.getD (p.2 * wd + c) .nan)))).2)
    | _ => Run.fail invalid

/-- x ranks before y in VTOPK (R275): NaN first, then the better value, then the lower position. -/
def topBefore (small : Bool) (x y : Num × Nat) : Bool :=
  if x.1.isNan && y.1.isNan then decide (x.2 ≤ y.2)
  else if x.1.isNan then true
  else if y.1.isNan then false
  else if Num.eq x.1 y.1 then decide (x.2 ≤ y.2)
  else if small then Num.lt x.1 y.1 else Num.lt y.1 x.1

def insertBy {α : Type} (le : α → α → Bool) (x : α) : List α → List α
  | [] => [x]
  | y :: r => if le x y then x :: y :: r else y :: insertBy le x r

/-- Stable insertion sort. -/
def sortBy {α : Type} (le : α → α → Bool) (l : List α) : List α := l.foldr (insertBy le) []

/-- The bytes of one list's result (R275): k values, k positions, zero bytes to a multiple of 8. -/
def topkBytes (o : VecOp) (es : List DElem) : List Byte :=
  let best := (sortBy (fun a b => topBefore o.topSmallest (a.1, a.2.1) (b.1, b.2.1))
    (es.zipIdx.map fun p => (o.sfmt.decode p.1.bits, p.2, p.1.bits))).take o.topK
  let bs := bytesOf (o.topK * (o.dfmt.bits / 8)) (packBits o.dfmt.bits (best.map fun b => b.2.2)) ++ best.flatMap (fun b => bytesOf 4 b.2.1)
  bs ++ List.replicate ((8 - bs.length % 8) % 8) 0

def vtopkRun (o : VecOp) (t : Task) (w : Who) : Run :=
  withSources w t o.sources fun es =>
    let xs := es.getD 0 []
    let out := (List.range o.lists).flatMap fun l => topkBytes o ((xs.drop (l * o.count)).take o.count)
    match o.dst with
    | .loc v => localWrite w.core (8 * v) out
    | .slot k =>
      -- the bytes reach the stream as elements of its format, bits unchanged (log 12)
      let n := out.length * 8 / o.dfmt.bits
      writeOpd w t.id (.slot k) o.dfmt ((List.range n).map fun i => let b := bits (natOf out) (i * o.dfmt.bits) o.dfmt.bits; (o.dfmt.decode b, b))
    | _ => Run.fail invalid

/-- x stands before or with y in a sort (R276); NaN keys last in either direction. -/
def sortBefore (desc : Bool) (x y : Num) : Bool :=
  if y.isNan then true else if x.isNan then false else if desc then Num.le y x else Num.le x y

def vsortRun (o : VecOp) (t : Task) (w : Who) : Run :=
  match o.a with
  | .loc ka =>
    let pay := match o.b with
      | .loc v => some v
      | _ => none
    Run.read (fun s => do
      let ks ← localElems s w.core (8 * ka) o.sfmt o.count
      let ps ← match pay with
        | some v => localElems s w.core (8 * v) .uint32 o.count
        | none => pure (List.replicate o.count 0)
      pure (sortBy (fun a b => sortBefore (o.param == 1) (o.sfmt.decode a.1) (o.sfmt.decode b.1)) (ks.zip ps))) fun r =>
      Run.all [
        Run.act (Act.count .coreVecElems (w.core / 36) (w.core % 36) (o.count * (if pay.isSome then 2 else 1))),
        Run.act (beats .coreVecBusy w.core),
        localPut w.core (8 * ka) o.sfmt (r.map (·.1)),
        match pay with
        | some v => localPut w.core (8 * v) .uint32 (r.map (·.2))
        | none => let _ := t; Run.ok]
  | _ => Run.fail invalid

/-- VHIST counts (R277). -/
def histAdd (o : VecOp) (cs : List Nat) (p : Nat × Nat) : List Nat :=
  let i := if p.1 < o.bins then p.1 else o.bins
  let v := cs.getD i 0 + p.2
  cs.set i (if o.sat then Nat.min v 0xFFFFFFFF else v % 2 ^ 32)

def vhistRun (o : VecOp) (t : Task) (w : Who) : Run :=
  withSources w t o.sources fun es =>
    let bins := (es.getD 0 []).map (·.bits)
    let ws := if o.b.isNone then List.replicate o.count 1 else (es.getD 1 []).map (·.bits)
    let cs := (bins.zip ws).foldl (histAdd o) (List.replicate (o.bins + 1) 0)
    writeOpd w t.id o.dst .uint32 (cs.map fun (c : Nat) => (Num.ofInt (c : Int), c))

def vbinAct (c : Nat) (tileError : Bool) : Act := issue 0x20 c (vecBody .vbin tileError vbinRun)
def vunAct (c : Nat) (tileError : Bool) : Act := issue 0x21 c (vecBody .vun tileError vunRun)
def vfmaAct (c : Nat) (tileError : Bool) : Act := issue 0x22 c (vecBody .vfma tileError vfmaRun)
def vredAct (c : Nat) (tileError : Bool) : Act := issue 0x23 c (vecBody .vred tileError vredRun)
def vsegAct (c : Nat) (tileError : Bool) : Act := issue 0x24 c (vecBody .vseg tileError vsegRun)
def vscataddAct (c : Nat) (tileError : Bool) : Act := issue 0x25 c (vecBody .vscatadd tileError vscataddRun)
def vtopkAct (c : Nat) (tileError : Bool) : Act := issue 0x26 c (vecBody .vtopk tileError vtopkRun)
def vsortAct (c : Nat) : Act := issue 0x27 c (vecBody .vsort false vsortRun)
def vhistAct (c : Nat) (tileError : Bool) : Act := issue 0x28 c (vecBody .vhist tileError vhistRun)

/-- MOVE (R248, R249): equal formats copy bits, others convert. `tileError` is an uncorrectable error met in a tile buffer
that the instruction reads (R477). -/
def moveRun (tileError : Bool) (i : HInstr) (t : Task) (w : Who) : Run :=
  match i with
  | .move sf df ovf sat bc dst src n =>
    if tileError && src.isTile then Run.fail (.fault 0x1003 none)
    else
      Run.read (fun s => readOpd s w src sf (if bc then 64 else n + 1)) fun es =>
        withMode w t dst { ovfInf := ovf, sat := sat } fun m =>
        let all := if bc then (List.replicate ((n + 1) / 64) es).flatten else es
        let res := all.map fun e => if sf = df then (df.decode e.bits, e.bits) else toDst df m (sf.decode e.bits)
        Run.all [consumeOpd w t.id src sf es, writeOpd w t.id dst df res true]
  | _ => Run.fail invalid

/-- FILL (R248). -/
def fillRun (i : HInstr) (t : Task) (w : Who) : Run :=
  match i with
  | .fill df dst imm n => writeOpd w t.id dst df (List.replicate (n + 1) (df.decode imm, imm)) true
  | _ => Run.fail invalid

def moveAct (c : Nat) (tileError : Bool) : Act := issue 0x40 c (moveRun tileError)
def fillAct (c : Nat) : Act := issue 0x41 c fillRun

/-- VBIN (R244, R268). -/
def execVbin (r : TileRead) (s : State) : Host.Outcome State Fault Refusal := perform (vbinAct r.core r.tileError) s
/-- VUN (R244, R268-R270). -/
def execVun (r : TileRead) (s : State) : Host.Outcome State Fault Refusal := perform (vunAct r.core r.tileError) s
/-- VFMA (R244, R271). -/
def execVfma (r : TileRead) (s : State) : Host.Outcome State Fault Refusal := perform (vfmaAct r.core r.tileError) s
/-- VRED (R245, R272). -/
def execVred (r : TileRead) (s : State) : Host.Outcome State Fault Refusal := perform (vredAct r.core r.tileError) s
/-- VSEG (R245, R273). -/
def execVseg (r : TileRead) (s : State) : Host.Outcome State Fault Refusal := perform (vsegAct r.core r.tileError) s
/-- VSCATADD (R245, R274). -/
def execVscatadd (r : TileRead) (s : State) : Host.Outcome State Fault Refusal := perform (vscataddAct r.core r.tileError) s
/-- VTOPK (R246, R275). -/
def execVtopk (r : TileRead) (s : State) : Host.Outcome State Fault Refusal := perform (vtopkAct r.core r.tileError) s
/-- VSORT (R246, R276). -/
def execVsort (c : CoreIx) (s : State) : Host.Outcome State Fault Refusal := perform (vsortAct c) s
/-- VHIST (R246, R277). -/
def execVhist (r : TileRead) (s : State) : Host.Outcome State Fault Refusal := perform (vhistAct r.core r.tileError) s
/-- MOVE (R248, R249). -/
def execMove (c : CoreIx) (tileError : Bool) (s : State) : Host.Outcome State Fault Refusal := perform (moveAct c tileError) s
/-- FILL (R248). -/
def execFill (c : CoreIx) (s : State) : Host.Outcome State Fault Refusal := perform (fillAct c) s

end Sys2Proof.Machine
end

