-- ==== Sys2Proof/Machine/Streams.lean ====
section
/-! DEFINITION. Streams at work: binding, release and rearming (R149, R175-R177, R250-R252), the request path (R150,
R165-R167), multicast (R170), run-ahead (R172-R174), contexts (R179) and translations of host and device space (R183, R184,
R186). -/

namespace Sys2Proof.Machine

/-- Identifiers of a partition's tensors (R139). -/
def tensorsOf (s : State) : Nat := 4096 / s.nParts
/-- Module record of identifier i of partition p (R139). -/
def tensorRec (s : State) (p i : Nat) : Nat := p * tensorsOf s + i

/-- Address of a descriptor with PER_CORE (R236). -/
def descAddr (t : Task) (w : Who) (pc : Bool) (a : Nat) : Nat := (a + if pc then 64 * t.desc.lane w.core else 0) % 2 ^ 56

/-- The stream descriptor at an address, checked under R151-R158, R139, R185 and R187. -/
def bindDesc (s : State) (w : Who) (t : Task) (dva : Bool) (a : Nat) : Except Stop Desc := do
  let bs ← (readRange s w.p w.ps w.core dva a 64).toExcept
  match parseDesc bs with
  | none => .error (.fault 0x3002 none)
  | some d =>
    if tensorsOf s ≤ d.tensorId then .error (.fault 0x3002 none)
    else if !d.inRegions t.regions then .error (.fault 0x3011 none)
    else match d.body with
      | .scatter _ _ _ _ _ true => if t.desc.nonReplayable then pure d else .error (.fault 0x3013 none)
      | _ => pure d

/-- The parameter range of a task (R327). -/
def LiveSnap.isParam (v : LiveSnap) (i : Nat) : Bool := v.paramEn && decide (v.paramFirst ≤ i ∧ i ≤ v.paramLast)

/-- A tagged gather (R327, R328): the first records the tag, a later one that differs raises VERSION_SKEW. -/
def tagGather (w : Who) (t : Task) (d : Desc) : Act := fun s =>
  if d.store || !t.live.isParam d.tensorId then []
  else
    let tag := (s.reg ⟨.telPtag, tensorRec s w.p d.tensorId, 0⟩).toNat
    match (s.part w.p).tags.find? fun e => e.1 == d.tensorId with
    | none => [.part w.p fun x => { x with tags := (d.tensorId, tag) :: x.tags }]
    | some e =>
      if e.2 = tag then []
      else Act.all [
        Act.of [.part w.p fun x => { x with flagSkew := true }, .fld F.hostTrainStatusSkew w.p 0 1],
        Act.when (fun s => s.flag F.hostTrainIrqOnSkew w.p) (Act.look fun s => sendMsix (s.owner w.p) (s.get F.hostTrainIrqVector w.p))] s

def Core.setStream (k : Core) (x n : Nat) (st : Stream) : Core :=
  { k with streams := ((x, n), st) :: k.streams.filter fun e => decide (e.1 ≠ (x, n)) }
def Core.dropStream (k : Core) (x n : Nat) : Core := { k with streams := k.streams.filter fun e => decide (e.1 ≠ (x, n)) }
/-- The stream in a slot, early ones included. -/
def Core.anyStream (k : Core) (x n : Nat) : Option Stream := (k.streams.find? fun e => e.1 == (x, n)).map (·.2)

/-! ### Staging (R150) -/

/-- Bytes of staged segments. -/
def heldBytes (xs : List (Nat × List Byte)) : Nat := xs.foldl (fun n e => n + e.2.length) 0

/-- Bytes that a stream holds staged, for its own task and for later ones. -/
def Stream.size (st : Stream) : Nat := heldBytes st.staged + st.later.foldl (fun n x => n + heldBytes x.staged) 0

/-- The staging share of each bound load stream of a core (R150). -/
def stageShare (s : State) (c : Nat) : Nat :=
  let n := ((s.core c).streams.filter fun e => !e.2.desc.store).length
  s.stageSize (s.partOfCore c) / Nat.max n 1 / 512 * 512

/-- Segments in turn as long as they fit. -/
def takeFit : Nat → List (Nat × List Byte) → List (Nat × List Byte)
  | _, [] => []
  | room, e :: r => if e.2.length ≤ room then e :: takeFit (room - e.2.length) r else []

/-- A load stream that fits its share; what it gives up is fetched again. -/
def Stream.fit (share : Nat) (st : Stream) : Stream :=
  if st.desc.store || decide (st.size ≤ share) then st
  else
    let keep := takeFit share st.staged
    { st with
      staged := keep, ahead := if keep.length = st.staged.length then st.ahead else st.pos
      later := st.later.map fun x => { x with ahead := 0, staged := [], upto := [] } }

/-- The streams of a core after one more has been bound: each holds no more than its share now is (R150). -/
def fitShares (c : Nat) : Act := fun s =>
  let n := stageShare s c
  [.core c fun k => { k with streams := k.streams.map fun e => (e.1, e.2.fit n) }]

/-- Staged segments that still hold elements to come. -/
def Stream.trim (st : Stream) : Stream :=
  { st with staged := st.staged.filter fun e => decide (st.pos < tget st.upto e.1 (st.pos + 1))
            upto := st.upto.filter fun e => decide (st.pos < e.2) }

/-! ### Binding, release and rearming -/

/-- BIND (R250). A stream that run-ahead has bound for this task keeps what it has staged (R177). -/
def bindAct (c : Nat) : Act := issue 0x30 c fun i t w =>
  match i with
  | .desc .bind slot _ pc dva addr =>
    let a := descAddr t w pc addr
    Run.read (fun s =>
        if 16 / s.ctxCount w.p ≤ slot ∨ ((s.core w.core).stream w.ctx slot).isSome then .error mismatch
        else (bindDesc s w t dva a).map fun d => (d, (s.core w.core).anyStream w.ctx slot)) fun r =>
      let fresh : Stream := { addr := a, desc := r.1, boundBy := t.id, owner := t.id }
      let st : Stream := match r.2 with
        | some e => if e.owner = t.id ∧ e.addr = a ∧ e.desc = r.1 then { e with early := false } else fresh
        | none => fresh
      Run.act (Act.all [Act.of [.core w.core fun k => k.setStream w.ctx slot st], fitShares w.core, tagGather w t r.1])
  | _ => Run.fail invalid

/-- UNBIND (R251). A core that releases a multicast stream no longer keeps its group waiting (R170). A persistent stream that was bound before
the task is kept aside, since it comes back should the task be discarded (R175). -/
def unbindAct (c : Nat) : Act := issue 0x31 c fun i t w =>
  match i with
  | .unbind slot all =>
    let gone := fun (e : (Nat × Nat) × Stream) => !e.2.early && e.1.1 == w.ctx && (all || e.1.2 == slot)
    Run.act (Act.of [.core w.core fun k =>
      let x := k.ctx w.ctx
      let out := (k.streams.filter fun e => gone e && e.2.desc.mcast).map fun e => (e.1.2, e.2.addr)
      let aside := (k.streams.filter fun e => gone e && e.2.desc.persist && e.2.owner != t.id).map fun e => (t.id, e)
      { k with streams := k.streams.filter fun e => !gone e, ctxs := tset k.ctxs w.ctx { x with released := out ++ x.released }, unbound := aside ++ k.unbound },
      dropReads w.core fun r => r.ctx == w.ctx && (all || r.slot == slot)])
  | _ => Run.fail invalid

/-- A descriptor with a new address (R176, R251); none where its type has no such address. DESIGN CHOICE (log 57): the address is taken as it
is, also where it breaks the alignment that R155 or R163 asks of a descriptor's BASE. -/
def Desc.rearm (d : Desc) (which : Nat) (add : Bool) (addr : Nat) : Option Desc :=
  let new := fun (old : Nat) => if add then (old + addr) % 2 ^ 56 else addr
  match which, d.body with
  | 0, _ => some { d with base := new d.base }
  | 1, _ => some { d with scaleBase := new d.scaleBase }
  | 2, .indexed ib n e rs lim rb => some { d with body := .indexed (new ib) n e rs lim rb }
  | 2, .scatter ib n e rs lim op => some { d with body := .scatter (new ib) n e rs lim op }
  | 2, .neighbour fo fe nb sg n rs lim rb => some { d with body := .neighbour fo fe (new nb) sg n rs lim rb }
  | _, _ => none

/-- What run-ahead holds for the stream's own task, by the descriptor that it now has (R172, R176). -/
def Stream.armed (st : Stream) : Option Later := st.later.find? fun x => decide (x.task = st.boundBy ∧ x.desc = st.desc)

/-- A stream at its first element, which takes over what run-ahead has fetched for its task by this descriptor. -/
def Stream.restart (st : Stream) : Stream :=
  let st := { st with pos := 0, held := [], ahead := 0, staged := [], upto := [] }
  match st.armed with
  | some x => { st with ahead := x.ahead, staged := x.staged, upto := x.upto, later := st.later.filter fun y => decide (y.task ≠ st.boundBy) }
  | none => st

/-- Requests that run-ahead sent for a later task read for the stream's own task from now on. -/
def ownReads (c x slot task : Nat) : Upd :=
  .reqs fun l => l.map fun r => if r.core = c ∧ r.ctx = x ∧ r.slot = slot ∧ r.later = some task then { r with later := none } else r

/-- REARM (R252): the stream goes back to its first element with the new address, and staged data of the old one are dropped. What the
REARM instructions of a stream were tells which cores still are of one multicast group. -/
def rearmAct (c : Nat) : Act := issue 0x32 c fun i _ w =>
  match i with
  | .rearm slot which add addr =>
    Run.read (fun s => match (s.core w.core).stream w.ctx slot with
      | none => .error mismatch
      | some st => if !st.desc.persist then .error mismatch else match st.desc.rearm which add addr with
        | none => .error mismatch
        | some d => .ok { st with desc := d, arms := st.arms ++ [(which, add, addr)] }) fun st =>
      Run.act (Act.of ([dropReads w.core fun r => r.ctx == w.ctx && r.slot == slot] ++
        (if st.armed.isSome then [ownReads w.core w.ctx slot st.boundBy] else []) ++ [.core w.core fun k => k.setStream w.ctx slot st.restart]))
  | _ => Run.fail invalid

/-- The descriptor of a bound stream has arrived (R149): the stream may fetch. -/
def descriptorFetchedAct (c x slot : Nat) : Act := fun _ =>
  [.core c fun k => { k with streams := k.streams.map fun e => if e.1 = (x, slot) then (e.1, { e.2 with ready := true }) else e }]

/-! ### Requests (R150, R165, R166) -/

/-- Stores that hold a tracker entry: issued ones, those merged into one request once (R165). -/
def Store.tracked (x : Store) : Bool := x.issued && x.merged.isNone

/-- Requests outstanding at a die and at a core, the off-load ones of the die (R166), and those of its Drover (R288). -/
def dieOutstanding (s : State) (d : Nat) : Nat :=
  (s.reqs.filter fun r => r.core / 36 == d).length + (s.stores.filter fun x => x.tracked && x.core / 36 == d).length
def coreOutstanding (s : State) (c : Nat) : Nat :=
  (s.reqs.filter fun r => r.core == c).length + (s.stores.filter fun x => x.tracked && x.core == c).length
def dieOffload (s : State) (d : Nat) : Nat :=
  (s.reqs.filter fun r => r.offload && r.core / 36 == d).length + (s.stores.filter fun x => x.tracked && x.offload && x.core / 36 == d).length
def droverSlot : Nat := 17
def dieDrover (s : State) (d : Nat) : Nat := (s.stores.filter fun x => x.tracked && x.slot == droverSlot && x.core / 36 == d).length
def trackerFree (s : State) (c : Nat) (offload : Bool) (drover : Bool := false) : Bool :=
  decide (dieOutstanding s (c / 36) < 16384) && decide (coreOutstanding s c < 1024) && (!offload || decide (dieOffload s (c / 36) < 4096)) &&
    (!drover || decide (dieDrover s (c / 36) < 2048))

/-- What a stream fetches next: `at` gives an element, the first byte and the end of its bytes inside one segment, whether the element goes on
in the next segment, and the address of the first byte; `item` the bytes of an index or a scale that element j needs. -/
inductive Fetch
  | none
  | skip (j : Nat)
  | at (j loc stop : Nat) (more : Bool) (addr : Nat)
  | item (j loc n addr : Nat)
  | ats (page : Nat)
  deriving DecidableEq, Repr

/-- The scale byte of an element that its delivery reads (R154, R164). -/
def Desc.scaleAddr (d : Desc) (j sc : Nat) : Option Nat :=
  if d.scaled then some (d.scaleBase + sc)
  else if d.quantizing && d.scaleSrc != 0 then some (d.scaleBase + d.deliveredScale (d.coord j))
  else none

/-- The bytes of element j inside the first segment that it touches, or with `second` inside the second one: `skip` where the element has
none there, `item` where its place waits for index data or, after its bytes, its scale is to come, `none` where it cannot be reached. -/
def elemLoc (s : State) (w : Who) (st : Stream) (j : Nat) (second : Bool := false) : Fetch :=
  let place := fun (a : Nat) => match translate s w.p w.ps st.desc.va a false with
    | .ok l _ => if st.desc.offload && !isTier2 l then Fetch.none else .at j l l false a
    | .fault _ => .none
    | .needAts pg => .ats pg
  match locate s w st.waits (st.desc.coord j) with
  | .error (.ats pg) => .ats pg
  | .error (.need a l n _) => .item j l n a
  | .error _ => .none
  | .ok .masked => .skip (j + 1)
  | .ok (.at a o _) =>
    let n := ceilDiv (o + st.desc.memFmt.bits) 8
    match place a with
    | .at j l _ _ _ =>
      let d := 256 - l % 256
      if !second then .at j l (l + Nat.min n d) (decide (d < n)) a
      else if n ≤ d then .skip (j + 1)
      else match place (a + d) with
        | .at j k _ _ b => .at j k (k + (n - d)) false b
        | r => r
    | r => r

/-- The scale byte that element j still lacks. -/
def elemScale (s : State) (w : Who) (st : Stream) (j : Nat) : Fetch :=
  match locate s w st.waits (st.desc.coord j) with
  | .ok (.at _ _ sc) => match st.desc.scaleAddr j sc with
    | some a => match streamByte s w st.waits a with
      | .error (.need b l n _) => .item j l n b
      | _ => .skip (j + 1)
    | none => .skip (j + 1)
  | _ => .skip (j + 1)

/-- For whom a request reads: the stream's own task, a later one, or a pass that has been issued. -/
inductive Reader | own | later (task : Nat) | pass (id : Nat)
  deriving DecidableEq, Repr

def Reader.passId : Reader → Option Nat
  | .pass i => some i
  | _ => none
def Reader.taskId : Reader → Option Nat
  | .later t => some t
  | _ => none

def Request.reader (r : Request) : Reader :=
  match r.pass, r.later with
  | some i, _ => .pass i
  | none, some t => .later t
  | none, none => .own

/-- The request belongs to the stream of a slot. -/
def Request.ofSlot (r : Request) (c x slot : Nat) : Bool := r.slot == slot && ((r.core == c && r.ctx == x) || r.members.contains c)

/-- A request for the byte at a location is outstanding that brings it to the reader. Data for the stream reach its passes too. -/
def asked (s : State) (c x slot : Nat) (rd : Reader) (l : Nat) : Bool :=
  s.reqs.any fun r => r.ofSlot c x slot && decide (r.loc ≤ l ∧ l < r.loc + r.len) && (match rd with
    | .pass _ => true
    | _ => !r.dead && r.reader == rd)

/-- The first element from j on, before `stop`, that lacks bytes which are neither staged nor requested; at most n elements are looked at. -/
def nextFetch (s : State) (w : Who) (slot : Nat) (rd : Reader) (st : Stream) (stop : Nat) : Nat → Nat → Fetch
  | 0, j => .skip j
  | n + 1, j =>
    let here := fun (l : Nat) => (heldByte st.staged l).isSome || asked s w.core w.ctx slot rd l
    let go := nextFetch s w slot rd st stop n
    let scale := fun (j : Nat) => match elemScale s w st j with
      | .item j l k a => if here l then go (j + 1) else .item j l k a
      | _ => go (j + 1)
    if stop ≤ j then .none
    else match elemLoc s w st j with
      | .at k l e more a =>
        if !here l then .at k l e more a
        else if more then
          match elemLoc s w st j true with
          | .at k l e more a => if here l then scale j else .at k l e more a
          | .skip _ => scale j
          | r => r
        else scale j
      | .item k l n a => if here l then .none else .item k l n a
      | .skip k => go k
      | r => r

/-- Where a request that has come to byte e goes on, while elements from j on follow inside its segment: the element that the next request
begins with, the one after the last whose bytes this request holds, and its end; at most n elements are looked at. -/
def spanEnd (s : State) (w : Who) (st : Stream) (stop l0 : Nat) : Nat → Nat → Nat → Nat × Nat × Nat
  | 0, j, e => (j, j, e)
  | n + 1, j, e =>
    if stop ≤ j then (j, j, e)
    else match elemLoc s w st j with
      | .at _ l e' more _ =>
        if l0 ≤ l ∧ l ≤ e ∧ l < l0 / 256 * 256 + 256 then
          if more then (j, j + 1, Nat.max e e') else spanEnd s w st stop l0 n (j + 1) (Nat.max e e')
        else (j, j, e)
      | _ => (j, j, e)

/-- A page of the partition's device space is cached on use (R183). -/
def cacheXlat (p : Nat) (va : Bool) (a : Nat) : Act := fun s =>
  if !va ∨ a / 2 ^ 55 % 2 = 1 ∨ (cached (s.part p).tlb a).isSome then []
  else match walk s p a levels (s.get F.memXlatRootRoot p * 0x8000) with
    | .inl x => [.part p fun y => { y with tlb := (x :: y.tlb).take (4096 * s.partSize) }]
    | .inr _ => []

def whoOf (s : State) (c x : Nat) (st : Stream) : Who :=
  let p := s.partOfCore c
  { p := p, core := c, ctx := x, ps := match s.task st.boundBy with
      | some t => pasidKey s p t.q
      | none => match ((s.core c).ctx x).task.bind s.task with
        | some t => pasidKey s p t.q
        | none => 0 }

/-- The partition lets its cores work: in force, not draining, powered (R442, R470, R482). -/
def coreWorks (s : State) (c : Nat) : Bool := !(s.part (s.partOfCore c)).draining && s.coreOk c

/-- Bytes that a stream holds staged or has requested (R150). -/
def claimed (s : State) (c x slot : Nat) (st : Stream) : Nat :=
  st.trim.size + ((s.reqs.filter fun q => q.ofSlot c x slot && !q.dead && q.pass.isNone).foldl (fun n q => n + q.len) 0)

def updStream (c x slot : Nat) (g : Stream → Stream) : Upd :=
  .core c fun k => { k with streams := k.streams.map fun e => if e.1 = (x, slot) then (e.1, g e.2) else e }

/-- A stream's own fetching, or that for a later task, has come to element a; segments that it has used up are gone. -/
def Stream.reach (rd : Reader) (a : Nat) (st : Stream) : Stream :=
  match rd with
  | .own => { st.trim with ahead := a }
  | .later t => { st with later := st.later.map fun x => if x.task = t then { x with ahead := a } else x }
  | .pass _ => st

/-- The host port takes another non-posted request: at most 768 are outstanding (R459). -/
def portFree (s : State) (l : Nat) : Bool :=
  !isHostLoc l || decide ((s.reqs.filter fun r => isHostLoc r.loc && hostFn r.loc == hostFn l).length < 768)

/-- Sends a read of n bytes at l, merged into one of the same reader and segment that still waits in the core's queue, which is a matter of
beats (R165, log 1). The stream's staging share bounds what run-ahead may hold (R150); what an issued pass lacks goes on to the arrays, and
the index data of a store stream lie in no share (log 64). -/
def sendRead (c x slot : Nat) (members : List Nat) (rd : Reader) (st : Stream) (l n addr ahead upto : Nat) : Act := fun s =>
  let free := fun (more : Nat) => (match rd with
    | .pass _ => true
    | _ => st.desc.store || decide (((s.core c).anyStream x slot).elim 0 (claimed s c x slot) + more ≤ stageShare s c))
  let touch := updStream c x slot (Stream.reach rd ahead)
  let cache := cacheXlat (s.partOfCore c) st.desc.va addr
  let wait := s.reqs.find? fun q => q.core == c && q.ctx == x && q.slot == slot && q.loc / 256 == l / 256 && !q.dead && q.reader == rd && q.members.isEmpty && members.isEmpty
  let fresh : Act := if free n && trackerFree s c st.desc.offload && portFree s l then
      Act.all [
        Act.of [.draw 1, .reqs fun xs => xs ++ [{ id := s.nextId, core := c, ctx := x, slot := slot, task := st.boundBy, loc := l, len := n, offload := st.desc.offload, members := members, upto := upto, va := if st.desc.va then some addr else none, pass := rd.passId, later := rd.taskId }],
          .newId 1, touch], cache]
    else Act.skip
  match wait with
  | some q =>
    let lo := Nat.min q.loc l
    let len := Nat.max (q.loc + q.len) (l + n) - lo
    if Config.freeNat s.free % 2 = 0 then
      if free (len - q.len) then Act.all [
        Act.of [.draw 1, .reqs fun xs => xs.map fun y => if y.id = q.id then { y with loc := lo, len := len, upto := Nat.max y.upto upto } else y,
          touch, .add ⟨.coreStMerges, c / 36, c % 36⟩ 1], cache] s
      else []
    else fresh s
  | none => fresh s

/-- A read request for the next bytes that a reader of a stream lacks between two elements, or the translation that it needs. -/
def fetchFor (w : Who) (slot : Nat) (members : List Nat) (rd : Reader) (st : Stream) (start stop : Nat) : Act := fun s =>
  match nextFetch s w slot rd st stop 4096 start with
  | .none => []
  | .skip j => if rd = .own ∧ j ≠ st.ahead then [updStream w.core w.ctx slot (Stream.reach rd j)] else []
  | .ats pg => requestAts w.p w.ps pg (.ahead st.boundBy) st.desc.faultEarly s
  | .at j l e more a =>
    let r := if more then (j, j + 1, e) else spanEnd s w st stop l 2048 (j + 1) e
    sendRead w.core w.ctx slot members rd st l (r.2.2 - l) a r.1 r.2.1 s
  | .item j l n a => sendRead w.core w.ctx slot members rd st l (Nat.min n (256 - l % 256)) a j (j + Nat.max st.desc.blockLen st.desc.rowPadded) s

/-- The context waits at a DEP marker whose condition is not met: run-ahead stops there (R172). Reads for issued passes go on. -/
def atMarker (k : Core) (x : Nat) : Bool :=
  match (k.ctx x).wait with
  | .gate _ _ | .barrier _ => true
  | _ => false

/-- Run-ahead of a stream: for the task that uses it, then for each later task in turn (R172, R176). A store stream fetches only the index
data of a SCATTER. -/
def fetchAct (c x slot : Nat) (members : List Nat) : Act := fun s =>
  match (s.core c).anyStream x slot with
  | none => []
  | some st0 =>
    let st := st0.trim
    let w := whoOf s c x st
    let uses := if st.early then (s.task st.boundBy).isSome else ((s.core c).ctx x).task == some st.boundBy
    let scatter := match st.desc.body with
      | .scatter _ _ _ _ _ _ => true
      | _ => false
    if !st.ready || (st.desc.store && !scatter) || !coreWorks s c || (s.core c).halted || atMarker (s.core c) x then []
    else if uses && decide (Nat.max st.ahead st.pos < st.desc.total) then
      fetchFor w slot members .own st (if members.isEmpty then Nat.max st.ahead st.pos else st.ahead) st.desc.total s
    else match st.later.find? fun x => decide (x.ahead < x.desc.total) && (s.task x.task).isSome with
      | some y =>
        let ps := (s.task y.task).elim w.ps fun t => pasidKey s w.p t.q
        fetchFor { w with ps := ps } slot [] (.later y.task) { st with desc := y.desc, pos := 0, staged := y.staged } y.ahead y.desc.total s
      | none => []

/-! ### What an issued pass lacks (R84) -/

/-- Elements that the next fill and the next row of a pass's runs need. -/
def PassGroup.fillNeed (g : PassGroup) (k : Core) : List Nat :=
  (k.units.find? fun u => u.group == g.id && u.weights.isNone).elim [] fun u => u.wIxs g
def PassGroup.rowNeed (g : PassGroup) (k : Core) : List Nat :=
  (k.units.find? fun u => u.group == g.id && decide (u.rows < g.op.m)).elim [] fun u => u.aIxs g

/-- The first bytes that some elements of a pass's operand lack. -/
def passLacks (s : State) (c : Nat) (g : PassGroup) (st : Stream) (ixs : List Nat) : Option (Nat × Nat × Nat × Bool) :=
  match passElems s (groupWho s c g) g st ixs with
  | .error (.need a l n i) => some (a, l, n, i)
  | _ => none

/-- A read for one operand of an issued pass, which `taken` elements of the stream belong to. -/
def passFetch (c x slot : Nat) (g : PassGroup) (st : Stream) (taken : Nat) (ixs : List Nat) : Act := fun s =>
  let w := groupWho s c g
  let stop := match (s.core c).stream x slot with
    | some y => if y.desc.mcast && !y.left && y.addr == st.addr then Nat.min (st.pos + taken) y.ahead else st.pos + taken
    | none => st.pos + taken
  match nextFetch s w slot (.pass g.id) st stop 4096 st.pos with
  | .at j l e more a =>
    let r := if more then (j, j + 1, e) else spanEnd s w st stop l 2048 (j + 1) e
    sendRead c x slot [] (.pass g.id) st l (r.2.2 - l) a r.1 r.2.1 s
  | .item j l n a => sendRead c x slot [] (.pass g.id) st l (Nat.min n (256 - l % 256)) a j j s
  | _ => match passLacks s c g st ixs with
    | some (a, l, n, _) => if asked s c x slot (.pass g.id) l then [] else sendRead c x slot [] (.pass g.id) st l (Nat.min n (256 - l % 256)) a 0 0 s
    | none => []

/-- Reads for the passes of a context that still take elements of a slot. -/
def passReads (c x slot : Nat) : Act := fun s =>
  let k := s.core c
  (k.groups.filter fun g => g.ctx == x).foldl (fun us g =>
    if !us.isEmpty then us
    else if g.op.wSlot = slot ∧ g.fillNeed k ≠ [] then passFetch c x slot g g.w g.op.wTaken (g.fillNeed k) s
    else if g.op.aSlot = slot ∧ g.rowNeed k ≠ [] then passFetch c x slot g g.a (g.op.aTaken g.a.desc.tiled) (g.rowNeed k) s
    else []) []

/-- A store goes out (R165, R166): merged into an issued one of its slot and segment that still waits in the core's queue, which is a
matter of beats (log 1), or with a tracker entry of its own. -/
def issueStore (y : Store) : Act := fun s =>
  let own : List Upd := if trackerFree s y.core y.offload (y.slot == droverSlot) then [.stores fun l => l.map fun z => if z.id = y.id then { z with issued := true } else z] else []
  match s.stores.find? fun z => z.tracked && z.core == y.core && z.ctx == y.ctx && z.slot == y.slot && z.loc / 256 == y.loc / 256 with
  | some z =>
    if Config.freeNat s.free % 2 = 0 then
      [.draw 1, .stores fun l => l.map fun e => if e.id = y.id then { e with issued := true, merged := some z.id } else e, .add ⟨.coreStMerges, y.core / 36, y.core % 36⟩ 1]
    else .draw 1 :: own
  | none => own

/-- STREAM_REQUEST_ISSUE (R165): the slot's oldest store, else the oldest of the stores that no slot makes (STAT_READ, UPDATE and
Drover), else a read for a pass that takes from the slot, else a read of its load stream. A multicast stream is fetched for its group
instead (R170). -/
def requestIssueAct (c x slot : Nat) : Act := fun s =>
  let mine := (s.stores.filter fun y => y.core == c && y.ctx == x && y.slot == slot && !y.issued).getLast?
  let loose := (s.stores.filter fun y => y.core == c && y.ctx == x && decide (16 ≤ y.slot) && !y.issued).getLast?
  match mine.or loose with
  | some y => if coreWorks s c then issueStore y s else []
  | none =>
    match if coreWorks s c && !(s.core c).halted then passReads c x slot s else [] with
    | [] => (match (s.core c).anyStream x slot with
      | some st => if st.desc.mcast && !st.left then [] else fetchAct c x slot [] s
      | none => [])
    | us => us

/-- The members of a multicast group: cores of the task's mask with the same descriptor in the same slot, rearmed alike (R170, R252). -/
def mcastGroup (s : State) (t : Task) (slot : Nat) (st : Stream) : List (Nat × Nat × Stream) :=
  t.desc.mask.filterMap fun k =>
    if t.retired.any fun r => r.1 == k then none
    else match (s.core k).streams.find? (fun e => e.1.2 == slot && e.2.addr == st.addr && e.2.desc == st.desc && e.2.arms == st.arms && e.2.boundBy == st.boundBy && !e.2.left && !e.2.early) with
    | some e => some (k, e.1.1, e.2)
    | none => none

/-- A core of the mask keeps the group waiting: it has not yet bound the stream, or has not yet rearmed it as the others have (R170,
R252). -/
def mcastWaits (s : State) (t : Task) (slot : Nat) (st : Stream) (k : Nat) : Bool :=
  let e := (s.core k).streams.find? fun f => f.1.2 == slot && f.2.addr == st.addr && !f.2.early
  !(t.retired.any fun r => r.1 == k) && (!t.started.contains k || (match e with
    | some f => !f.2.left && f.2.arms.length < st.arms.length && f.2.arms.isPrefixOf st.arms
    | none => !((s.core k).ctxs.any fun y => y.2.task == some t.id && y.2.released.contains (slot, st.addr))))

/-- MCAST_SEGMENT_FETCH (R170): one fetch for the group once every core of the mask has bound the stream, or has left, and
every member has space. -/
def mcastFetchAct (c slot : Nat) : Act := fun s =>
  match (s.core c).streams.find? (fun e => e.1.2 == slot && e.2.desc.mcast && !e.2.left && !e.2.early) with
  | none => []
  | some e =>
    match s.task e.2.boundBy with
    | none => fetchAct c e.1.1 slot [] s
    | some t =>
      let g := mcastGroup s t slot e.2
      if t.desc.mask.any (mcastWaits s t slot e.2) || g.any (fun m => decide (stageShare s m.1 < claimed s m.1 m.2.1 slot m.2.2 + 256)) then []
      else fetchAct c e.1.1 slot (g.map (·.1)) s

/-! ### Late data (R178, R179) -/

/-- The stall cause of data at a location (R178). DESIGN CHOICE (log 55): data in a core's local memory that a stream reads count as tier-1
data do. -/
def stallCause (c l : Nat) : RegName :=
  if isHostLoc l then .coreStallPeer
  else match placeOf l with
    | .tier1 d => if d = c / 36 then .coreStallTier1 else .coreStallRemoteDie
    | .tier2 d => if d = c / 36 then .coreStallTier2 else .coreStallRemoteDie
    | .buffer d => if d = c / 36 then .coreStallTier1 else .coreStallRemoteDie
    | .localMem k => if k / 36 = c / 36 then .coreStallTier1 else .coreStallRemoteDie
    | .reserved => .coreStallTier1

/-- The running task's consumer has reached the bytes of a request: they hold the next element that it reads from the slot, or belong to an
issued pass (R460, R184). Every other fetch is ahead of its consumer. -/
def reached (s : State) (r : Request) : Bool :=
  r.pass.isSome || (match (s.core r.core).stream r.ctx r.slot with
  | some st => ((s.core r.core).ctx r.ctx).task == some r.task &&
      [false, true].any fun second => (match elemLoc s (whoOf s r.core r.ctx st) st st.pos second with
      | .at _ l e _ _ => decide (r.loc < e ∧ l < r.loc + r.len)
      | .item _ l n _ => decide (r.loc < l + n ∧ l < r.loc + r.len)
      | _ => false)
  | none => false)

/-- The source operands of an instruction, with their formats and element counts; a matrix pass waits for its operands after its issue. -/
def HInstr.sources : HInstr → List (Opd × Fmt × Nat)
  | .vec o => o.sources
  | .move sf _ _ _ bc _ src n => [(src, sf, if bc then 64 else n + 1)]
  | _ => []

/-- The destination slot of an instruction. -/
def HInstr.target : HInstr → Option Nat
  | .vec o => (match o.dst with
    | .slot k => some k
    | _ => none)
  | .move _ _ _ _ _ dst _ _ => (match dst with
    | .slot k => some k
    | _ => none)
  | _ => none

/-- The instruction that a context executes next; none while it has no task, or where its word cannot be read. -/
def nextInstr (s : State) (c x : Nat) : Option HInstr :=
  match ((s.core c).ctx x).task.bind s.task with
  | none => none
  | some t => match fetchWord s { p := s.partOfCore c, core := c, ctx := x, ps := pasidKey s (s.partOfCore c) t.q } t with
    | .ok w => decodeWord w
    | .error _ => none

/-- The cause of a missing byte (R178). -/
def causeOf (c l : Nat) (index : Bool) : RegName := if index then .coreStallIndex else stallCause c l

/-- The cause under which an instruction's operand is not yet present; a stream whose descriptor has not arrived waits for its first
byte (R149). -/
def opdLacks (s : State) (w : Who) (o : Opd × Fmt × Nat) : Option RegName :=
  match readOpd s w o.1 o.2.1 o.2.2 with
  | .error (.need _ l _ i) => some (causeOf w.core l i)
  | .error .stall => (match o.1 with
    | .slot k => ((s.core w.core).stream w.ctx k).bind fun st => (match elemLoc s w { st with staged := [] } st.pos with
      | .at _ l _ _ _ => some (stallCause w.core l)
      | .item _ l _ _ => some (causeOf w.core l true)
      | _ => none)
    | _ => none)
  | _ => none

/-- The next instruction of a context lacks an operand. -/
def instrLacks (s : State) (c x : Nat) : List RegName :=
  match nextInstr s c x with
  | none => []
  | some i =>
    let p := s.partOfCore c
    let w : Who := { p := p, core := c, ctx := x, ps := (((s.core c).ctx x).task.bind s.task).elim 0 fun t => pasidKey s p t.q }
    i.sources.filterMap (opdLacks s w) ++ (match i.target.bind fun k => (s.core c).stream x k with
      | some st => (match scatterReady s w st (Nat.min 1 (st.desc.total - st.pos)) with
        | .error (.need _ l _ i) => [causeOf c l i]
        | _ => [])
      | none => [])

/-- The pass whose row enters next, or whose tile is filled next, lacks bytes. -/
def passLack (s : State) (c x : Nat) : List RegName :=
  let k := s.core c
  let of := fun (u : Option PassUnit) (row : Bool) => ((u.bind fun u => (groupOf k u).map fun g => (u, g)).bind fun e =>
    if e.2.ctx ≠ x ∨ (row ∧ rowBlocked k e.2) then none
    else passLacks s c e.2 (if row then e.2.a else e.2.w) (if row then e.1.aIxs e.2 else e.1.wIxs e.2)).map fun m => causeOf c m.2.1 m.2.2.2
  (of (nextFill k.units true) false).toList ++ (of (nextRows k) true).toList

/-- The causes under which a context stalls, in no order (R178). -/
def stallCauses (s : State) (c x : Nat) : List RegName :=
  if ((s.core c).ctx x).task.isNone then []
  else match ((s.core c).ctx x).wait with
    | .gate _ _ | .barrier _ => [.coreStallGate]
    | .drover => [.coreStallIndex]
    | .none => instrLacks s c x ++ passLack s c x

/-- The first cause of the table of R178. -/
def firstCause (l : List RegName) : Option RegName :=
  [.coreStallGate, .coreStallIndex, .coreStallPeer, .coreStallRemoteDie, .coreStallTier2, .coreStallTier1].find? fun r => l.contains r

/-- The next instruction of a context reads or adds to a buffer whose last results are still to come, or the next row waits for an earlier
pass (R96, R112, R129). -/
def depWaits (s : State) (c : Nat) : Bool :=
  let k := s.core c
  let pend := fun (b : TileBuf) => k.groups.any fun g => g.op.buf == b || (g.op.scope != .off && g.op.add && g.op.buf == b.other)
  (match nextInstr s c k.running with
    | some i => i.sources.any fun o => (match o.1 with
      | .tile b _ => pend b
      | _ => false)
    | none => false) ||
  (match nextRows k with
    | some u => u.weights.isSome && (groupOf k u).any (rowBlocked k)
    | none => false)

/-- A pass has its next row and every byte of its tile present, but its fill is not complete (R112). -/
def fillWaits (s : State) (c : Nat) : Bool :=
  let k := s.core c
  match nextRows k with
  | some u => u.weights.isNone && (groupOf k u).any fun g =>
      (passElems s (groupWho s c g) g g.w (u.wIxs g)).toBool && (passElems s (groupWho s c g) g g.a (u.aIxs g)).toBool
  | none => false

/-- The next word of a context is a pass into a buffer that another context holds (R179, R214). -/
def passBlocked (s : State) (w : Who) (id : Nat) : Bool :=
  match (s.task id).map fun t => fetchWord s { w with ps := pasidKey s w.p t.q } t with
  | some (.ok word) => (match decodeWord word with
    | some (.mpass o) => (s.core w.core).bufTaken w.ctx o.buf || (o.scope != .off && o.add && (s.core w.core).bufTaken w.ctx o.buf.other)
    | _ => false)
  | _ => false

/-- A context is ready: it waits for nothing, the operands of its next instruction are present, and its next pass finds its buffers free of
other contexts (R179, R214). -/
def ctxReady (s : State) (c x : Nat) : Bool :=
  match ((s.core c).ctx x).task with
  | some id => (((s.core c).ctx x).wait == .none) && (instrLacks s c x).isEmpty && !passBlocked s { p := s.partOfCore c, core := c, ctx := x } id
  | none => false

/-- The counter of a beat in which a core waits: MX_DEP_WAIT, MX_FILL_WAIT, or the stall cause of the context that ran last while no context is
ready (R112, R178, R179). -/
def waitCounters (s : State) (c : Nat) : List RegName :=
  let k := s.core c
  if depWaits s c then [.coreMxDepWait]
  else
    let other := k.ctxs.any fun e => e.1 != k.running && ctxReady s c e.1
    (if other then [] else (firstCause (stallCauses s c k.running)).toList) ++ (if fillWaits s c then [.coreMxFillWait] else [])

/-! ### Data and acknowledges -/

/-- Invalidations of a function complete when no access to its host memory is left: no request, and no store whose address has been
translated (R184). -/
def flushInvs (f : Fn) : Act := fun s =>
  let busy := s.reqs.any (fun r => isHostLoc r.loc && hostFn r.loc == f) || s.stores.any (fun x => isHostLoc x.loc && hostFn x.loc == f)
  if busy then []
  else (s.fn f).invs.map (fun v => Upd.emit (.atsInvalidateDone f v.1 v.2)) ++ [.fn f fun y => { y with invs := [] }]

/-- Data staged for an own or a later reader of a stream; where they no longer fit its share they are fetched again (R150). -/
def Stream.stage (share : Nat) (r : Request) (bs : List Byte) (st : Stream) : Stream :=
  let put := fun (l : List (Nat × List Byte)) => l.filter (fun g => decide (g.1 ≠ r.loc)) ++ [(r.loc, bs)]
  let fits := st.desc.store || decide (st.trim.size + bs.length ≤ share)
  match r.later with
  | none => if fits then { st with staged := put st.staged, upto := tset st.upto r.loc r.upto } else { st with ahead := st.pos }
  | some t => { st with later := st.later.map fun x => if x.task = t then
      (if fits then { x with staged := put x.staged, upto := tset x.upto r.loc r.upto } else { x with ahead := 0 }) else x }

/-- Data of a request into the streams that asked for it and the passes that take from their slot, unless a granule is poisoned: then the
fetch is dropped and repeated when its consumer reaches it (R479). Each core gets the bytes as it sees them (R171, R173). -/
def deliverData (r : Request) (bs : Nat → List Byte) : Act := fun s =>
  let cores := if r.members.isEmpty then [r.core] else r.members
  let put := fun (k : Nat) => Upd.core k fun y =>
    let mine := fun (x slot : Nat) => slot == r.slot && (x == r.ctx || !r.members.isEmpty)
    let more := fun (st : Stream) => { st with staged := st.staged ++ [(r.loc, bs k)] }
    { y with
      streams := y.streams.map fun e => if mine e.1.1 e.1.2 && !r.dead && r.pass.isNone then (e.1, e.2.stage (stageShare s k) r (bs k)) else e
      groups := y.groups.map fun g => { g with w := if mine g.ctx g.op.wSlot then more g.w else g.w, a := if mine g.ctx g.op.aSlot then more g.a else g.a } }
  Act.of (cores.map (fun k => Upd.add ⟨.coreStReadBytes, k / 36, k % 36⟩ r.len) ++ (if (s.poisonIn r.loc r.len).isSome then [] else cores.map put)) s

/-- READ_DATA_DELIVERED (R166): the data of an outstanding read reaches staging and its tracker entry is free. The data of a
host read are the bytes that the port delivered; the other bytes are those of memory, as each core's own stores leave them. -/
def readDeliveredAct (req : Nat) (err : MemErr) (host : List Byte) : Act := fun s =>
  match s.reqs.find? fun r => r.id == req with
  | none => []
  | some r =>
    let bs := fun (c : Nat) => (List.range r.len).map fun k => match isHostLoc r.loc, host[k]? with
      | true, some b => b
      | _, _ => byteSeen s c (r.loc + k)
    Act.all [
      Act.of [.reqs fun l => l.filter fun y => decide (y.id ≠ req)],
      if isHostLoc r.loc then Act.of ((host.take r.len).zipIdx.map fun e => Upd.hostCell (hostFn r.loc) (hostAddr (r.loc + e.2)) e.1) else memError r.loc err,
      deliverData r bs,
      if isHostLoc r.loc then flushInvs (hostFn r.loc) else Act.skip] s

/-- Two stores of a core touch the same byte. -/
def Store.meets (x y : Store) : Bool := x.core == y.core && decide (y.loc < x.loc + x.bytes.length ∧ x.loc < y.loc + y.bytes.length)

/-- STORE_ACK (R167): the request's bytes are in memory, with those of the stores merged into it, older ones first. A store that overlaps an
older one of its core is acknowledged after it. -/
def storeAckAct (store : Nat) (err : MemErr) : Act := fun s =>
  match s.stores.find? fun x => x.id == store with
  | none => []
  | some x =>
    let all := (s.stores.filter fun y => y.id == store || y.merged == some store).reverse
    let older := s.stores.any fun y => !(all.any fun z => z.id == y.id) && all.any fun z => y.meets z && decide (y.id < z.id)
    if !x.tracked || older then []
    else Act.all [
      if isHostLoc x.loc then Act.of (all.map fun z => .emit (.hostWrite (hostFn z.loc) (hostAddr z.loc) z.bytes)) else memError x.loc err,
      Act.each all fun z => storeBytes z.loc z.bytes,
      Act.of ((.stores fun l => l.filter fun y => !(all.any fun z => z.id == y.id)) :: all.map fun z => .add ⟨.coreStWriteBytes, z.core / 36, z.core % 36⟩ z.bytes.length),
      if isHostLoc x.loc then flushInvs (hostFn x.loc) else Act.skip] s

/-! ### Run-ahead into later tasks (R172, R176, R177) and contexts (R179) -/

/-- The tasks that a context of a core will run after its present one: dispatched, not yet started there, of the running task's queue, in
queue order. -/
def laterTasks (s : State) (c x : Nat) : List Task :=
  let q := (((s.core c).ctx x).task.bind s.task).map (·.q)
  s.tasks.filter fun t => t.ctx == x && t.desc.mask.contains c && !t.started.contains c && (match q with
    | some n => n == t.q
    | none => true)

/-- The later task into which run-ahead goes next (R172). -/
def nextTask (s : State) (c x : Nat) : Option Task :=
  let l := laterTasks s c x
  match ((s.core c).ctx x).ahead with
  | some id => if l.any fun t => t.id == id then (l.dropWhile fun t => t.id != id)[1]? else l.head?
  | none => l.head?

/-- The instructions that open a block: BIND and REARM words before the first word of another kind (R176, R177). -/
def openings (s : State) (w : Who) (t : Task) : Nat → Nat → List HInstr
  | 0, _ => []
  | n + 1, k =>
    match readRange s w.p w.ps w.core t.desc.bva (t.desc.block + 16 * k) 16 with
    | .ok bs => match decodeWord (natOf bs) with
      | some (.desc .bind a b c d e) => .desc .bind a b c d e :: openings s w t n (k + 1)
      | some (.rearm a b c d) => .rearm a b c d :: openings s w t n (k + 1)
      | _ => []
    | _ => []

/-- The descriptor that REARM words give the stream of a slot. -/
def rearmed (slot : Nat) (d : Desc) (is : List HInstr) : Desc :=
  is.foldl (fun d i => match i with
    | .rearm k which add addr => if k = slot then (d.rearm which add addr).getD d else d
    | _ => d) d

/-- A persistent stream that run-ahead takes on into one more task, by the descriptor that the tasks' opening REARM words give it. -/
def Stream.goOn (slot task : Nat) (is : List HInstr) (st : Stream) : Stream :=
  if !st.desc.persist || st.owner == task || st.boundBy == task || st.later.any (fun x => x.task == task) then st
  else { st with later := st.later ++ [{ task := task, desc := rearmed slot ((st.later.getLast?).elim st.desc (·.desc)) is }] }

/-- RUN_AHEAD_RESUME: run-ahead goes on into the next later task, whose opening REARM words it reads; persistent streams begin to fetch for it
once they have fetched what comes before (R172, R176). -/
def runAheadResumeAct (c x : Nat) : Act := fun s =>
  match nextTask s c x with
  | none => []
  | some t =>
    let p := s.partOfCore c
    let is := openings s { p := p, core := c, ctx := x, ps := pasidKey s p t.q } t 64 0
    [updCtx c x fun y => { y with ahead := some t.id },
      .core c fun k => { k with streams := k.streams.map fun e => if e.1.1 = x then (e.1, e.2.goOn e.1.2 t.id is) else e }]

/-- RUNAHEAD_BIND (R177): the first opening BIND of the later tasks, as far as run-ahead has come, whose slot is free is performed; an invalid
one is left to its execution (R265). -/
def runaheadBindAct (c x : Nat) : Act := fun s =>
  let p := s.partOfCore c
  let l := laterTasks s c x
  let ts : List Task := match ((s.core c).ctx x).ahead with
    | some id => if l.any fun t => t.id == id then l.takeWhile (fun t => t.id != id) ++ (s.task id).toList else l.take 1
    | none => l.take 1
  let go := ts.findSome? fun (t : Task) =>
    let w : Who := { p := p, core := c, ctx := x, ps := pasidKey s p t.q }
    (openings s w t 64 0).findSome? fun i => match i with
      | .desc .bind slot _ pc dva addr =>
        if ((s.core c).anyStream x slot).isSome || decide (16 / s.ctxCount p ≤ slot) then none else some (t, w, slot, dva, descAddr t w pc addr)
      | _ => none
  match go with
  | none => []
  | some (t, w, slot, dva, a) =>
    match bindDesc s w t dva a with
    | .error _ => []
    | .ok d => Act.all [Act.of [.core c fun k => k.setStream x slot { addr := a, desc := d, boundBy := t.id, owner := t.id, early := true }], fitShares c] s

/-- CONTEXT_SWITCH (R179): the running context would stall, and another one is ready. -/
def contextSwitchAct (c x : Nat) : Act := fun s =>
  let k := s.core c
  if x = k.running ∨ s.ctxCount (s.partOfCore c) ≤ x ∨ !coreWorks s c ∨ ctxReady s c k.running ∨ !ctxReady s c x then []
  else [.core c fun y => { y with running := x }, .add ⟨.coreCtxSwitches, c / 36, c % 36⟩ 1]

/-! ### Translations (R183, R184, R186) -/

/-- Sends a page request for a queue's access (R184). DESIGN CHOICE (log 54): none is sent while the function's 512 are outstanding; the
access faults as it would with one. -/
def pageRequest (p q index startTime : Nat) (irq faulted : Bool) (pg : Nat) (restarts letouts : Nat := 0) : Act := fun s =>
  let f := s.owner p
  let x := s.fn f
  if 512 ≤ x.prq.length then []
  else
    let pasid := s.get F.hostQPasidPasid p q
    let i := (((List.range 512).map fun k => (x.prgi + k) % 512).find? fun i => !x.prq.any fun r => r.prgi == i).getD x.prgi
    [.fn f fun y => { y with
      prgi := (i + 1) % 512
      prq := y.prq ++ [{ p := p, q := q, index := index, startTime := startTime, irq := irq, pasid := pasid, prgi := i, faulted := faulted, restarts := restarts, letouts := letouts }] },
     .emit (.pageRequest f pasid i pg)]

/-- A fault of a task that is not running: it is not run, a record is written and the queue holds (R204, R263). Where the
task was not dispatched the spec gives no START_TIME (log 1). -/
def holdQueue (p q index status code : Nat) (startTime : Option Nat) : Act := fun s =>
  Act.all [
    holdAt p q index [],
    Act.of [.draw 1],
    pushRecord p q { index := index, status := status, code := code, endTime := s.time, startTime := startTime.getD (Config.freeNat s.free % 2 ^ 64), restarts := 0, letouts := 0, msg := true, vector := s.get F.hostQCtrlVector p q }] s

/-- The fault record and the held queue of a failed descriptor fetch or dispatch check (R217, R263). -/
def fetchFault (p q code : Nat) (addr : Option (Nat × Bool)) : Act := fun s =>
  let i := (s.queue p q).next
  Act.all [
    logFault { code := code, scope := 1, part := some p, unit := 4, queue := some q, index := i, addr := addr },
    holdQueue p q i 1 code none] s

/-- No usable translation has come for a waiting access (R184). -/
def atsUnusable (p : Nat) (r : AtsReq) : Act := fun s =>
  let pri := s.flag F.memXlatCtrlPriEn p
  let code := if pri then 0x2004 else 0x2005
  let va := r.page + 2 ^ 55
  match r.who with
  | .task id core =>
    (match s.task id with
    | none => []
    | some t => Act.all [
        if pri then pageRequest p t.q t.index t.dispatchTime t.desc.irq true r.page t.restarts t.letoutPasses else Act.skip,
        taskFault id code (dieOfCore core) core (some (va, true))] s)
  | .ahead id =>
    (match s.task id with
    | some t => if r.early && pri then pageRequest p t.q t.index t.dispatchTime t.desc.irq false r.page 0 0 s else []
    | none => [])
  | .fetch q => if s.flag F.hostQStatusHeld p q then [] else Act.all [
      if pri then (pageRequest p q (s.queue p q).next (Config.freeNat s.free % 2 ^ 64) true true r.page).seq (Act.of [.draw 1]) else Act.skip,
      fetchFault p q code (some (va, true))] s
  | .record q =>
    (match (s.queue p q).records with
    | [] => []
    | x :: _ => Act.all [
        logFault { code := 0x1102, scope := 0, part := some p, unit := 4, queue := some q, index := x.index },
        recordDone p q x, flushRecords p q] s)
  | .boundary => []

/-- BIND (R250). -/
def execBind (c : CoreIx) (s : State) : Host.Outcome State Fault Refusal := perform (bindAct c) s
/-- UNBIND (R251). -/
def execUnbind (c : CoreIx) (s : State) : Host.Outcome State Fault Refusal := perform (unbindAct c) s
/-- REARM (R251, R252). -/
def execRearm (c : CoreIx) (s : State) : Host.Outcome State Fault Refusal := perform (rearmAct c) s
/-- The descriptor of a bound stream arrives (R149). -/
def execStreamDescriptorFetched (c : CoreIx) (x : CtxIx) (slot : SlotIx) (s : State) : Host.Outcome State Fault Refusal := perform (descriptorFetchedAct c x slot) s
/-- A stream issues a request (R165, R166). -/
def execStreamRequestIssue (c : CoreIx) (x : CtxIx) (slot : SlotIx) (s : State) : Host.Outcome State Fault Refusal := perform (requestIssueAct c x slot) s
/-- Data of a read arrive (R166). -/
def execReadDataDelivered (req : Nat) (err : MemErr) (hostData : List Byte) (s : State) : Host.Outcome State Fault Refusal := perform (readDeliveredAct req err hostData) s
/-- A store is acknowledged (R167). -/
def execStoreAck (store : Nat) (err : MemErr) (s : State) : Host.Outcome State Fault Refusal := perform (storeAckAct store err) s
/-- A multicast group fetches a segment (R170). -/
def execMcastSegmentFetch (c : CoreIx) (slot : SlotIx) (s : State) : Host.Outcome State Fault Refusal := perform (mcastFetchAct c slot) s
/-- Run-ahead goes on in the next task (R172). -/
def execRunAheadResume (c : CoreIx) (x : CtxIx) (s : State) : Host.Outcome State Fault Refusal := perform (runAheadResumeAct c x) s
/-- Run-ahead binds for the next task (R177). -/
def execRunaheadBind (c : CoreIx) (x : CtxIx) (s : State) : Host.Outcome State Fault Refusal := perform (runaheadBindAct c x) s
/-- The core turns to another context (R179). -/
def execContextSwitch (c : CoreIx) (x : CtxIx) (s : State) : Host.Outcome State Fault Refusal := perform (contextSwitchAct c x) s

end Sys2Proof.Machine
end

