-- ==== Sys2Proof/Machine/Drover.lean ====
section
/-! DEFINITION. Drover, the sampler of each die: the sampler descriptor (R282, R283), sampling (R284-R286) and its output
(R287), with the SAMPLE instruction (R247, R281). -/

namespace Sys2Proof.Machine

/-- A sampler descriptor (R282). `fan` lists the fanouts of the hops in use. -/
structure Sampler where
  mode : Nat
  fan : List Nat
  pad : Bool
  va : Bool
  offs64 : Bool
  seeds : Nat
  tensorId : Nat
  rowPtr : Nat
  colIdx : Nat
  cumw : Nat
  seedAt : Nat
  out : Nat
  edges : Nat
  outBlocks : Nat
  nodeLimit : Nat
  deriving DecidableEq, Repr

def ceil256 (n : Nat) : Nat := ceilDiv n 256 * 256

/-- Padded frontier sizes N_1, N_2, ... of the hops, with the size after the last (R287). -/
def frontierSizes : Nat → List Nat → List Nat
  | n, [] => [n]
  | n, f :: r => n :: frontierSizes (n * f) r

/-- Places of SEG_h and NB_h of each hop, and the size of the output area (R287). -/
def outPlaces : Nat → Nat → List Nat → List (Nat × Nat) × Nat
  | o, _, [] => ([], o)
  | o, n, f :: r =>
    let nb := o + ceil256 ((n + 1) * 4)
    let rest := outPlaces (nb + ceil256 (n * f * 4)) (n * f) r
    ((o, nb) :: rest.1, rest.2)

def Sampler.entry (d : Sampler) : Nat := if d.offs64 then 8 else 4

/-- A sampler descriptor from its 64 bytes; none where it breaks R282 or the first list of R283. -/
def parseSampler (bs : List Byte) : Option Sampler :=
  let v := natOf bs
  let u := fun (o w : Nat) => bits v (8 * o) w
  let c := u 0 32
  let hops := bits c 2 2
  let fans := [bits c 8 6, bits c 14 6, bits c 20 6]
  let sc := u 4 32
  let adr := [0x08, 0x10, 0x18, 0x20, 0x28].map fun o => u o 64
  let d : Sampler := {
    mode := bits c 0 2, fan := (fans.take hops).map (· + 1), pad := bit c 4, va := bit c 5, offs64 := bit c 6,
    seeds := bits sc 0 16 + 1, tensorId := bits sc 16 12, rowPtr := adr.getD 0 0, colIdx := adr.getD 1 0, cumw := adr.getD 2 0,
    seedAt := adr.getD 3 0, out := adr.getD 4 0, edges := bits (u 0x30 64) 0 40, outBlocks := bits (u 0x30 64) 40 24, nodeLimit := u 0x38 32 }
  let sizes := frontierSizes d.seeds d.fan
  if d.mode ≠ 3 ∧ hops ≠ 0 ∧ (fans.drop hops).all (· == 0) ∧ bits c 7 1 = 0 ∧ bits c 26 6 = 0 ∧ bits sc 28 4 = 0 ∧
      adr.all (fun a => decide (a < 2 ^ 56)) ∧ (d.mode = 2 ∨ d.cumw = 0) ∧ d.out % 256 = 0 ∧ d.nodeLimit ≠ 0 ∧ d.nodeLimit ≠ 0xFFFFFFFF ∧
      u 0x3C 32 = 0 ∧ (sizes.drop 1).all (fun n => decide (n < 2 ^ 32)) ∧ (outPlaces 256 d.seeds d.fan).2 ≤ d.outBlocks * 256 then some d
  else none

/-- The extents of R283. -/
def Sampler.extents (d : Sampler) : List (Int × Nat × Bool) :=
  [((d.rowPtr : Int), (d.nodeLimit + 1) * d.entry, false), ((d.colIdx : Int), d.edges * 4, false), ((d.seedAt : Int), d.seeds * 4, false),
   ((d.out : Int), d.outBlocks * 256, true)] ++ (if d.mode = 2 then [((d.cumw : Int), d.edges * 4, false)] else [])

/-- Two extents share a byte. -/
def extentsMeet (a b : Int × Nat × Bool) : Bool := decide (a.1 < b.1 + b.2.1 ∧ b.1 < a.1 + a.2.1)

/-- The outputs of one request overlap the outputs or the inputs of another (R281). -/
def Sampler.clash (a b : Sampler) : Bool :=
  a.va == b.va && (a.extents.any (fun x => x.2.2 && b.extents.any (extentsMeet x)) || b.extents.any fun x => x.2.2 && a.extents.any (extentsMeet x))

/-- Waiting requests of the partition that overlap a new one: their dies and cores. -/
def clashing (s : State) (p : Nat) (d : Sampler) : List (Nat × Nat) :=
  (s.diesOf p).flatMap fun e => (s.die e).drover.filterMap fun r => match parseSampler r.2.2.2 with
    | some x => if d.clash x then some (e, r.1) else none
    | none => none

/-- Both sides of an overlap are marked: their outputs are undefined bits (R281). -/
def markClash (s : State) (c p : Nat) (bs : List Byte) : List Upd :=
  match (parseSampler bs).elim [] (clashing s p) with
  | [] => []
  | l => (l ++ [(dieOfCore c, c)]).map fun e => .die e.1 fun x => { x with clash := e.2 :: x.clash }

/-- SAMPLE (R247): the request goes to the die's Drover, and the core waits for its outputs. -/
def sampleAct (c : Nat) : Act := withInstr 0x33 c fun i t w s =>
  match i with
  | .desc .sample _ _ pc dva addr =>
    settle w t.id (Run.read (fun s => do
      if (s.die (dieOfCore c)).drover.any (fun r => r.1 == c) then throw .stall
      let bs ← (readRange s w.p w.ps w.core dva (descAddr t w pc addr) 64).toExcept
      match parseSampler bs with
      | none => throw (.fault 0x3006 none)
      | some d =>
        if tensorsOf s ≤ d.tensorId then throw (.fault 0x3006 none)
        else if !d.extents.all (covered t.regions d.va) then throw (.fault 0x3011 none)
        else pure bs) fun bs =>
      Run.act (fun s => markClash s c w.p bs ++ [.die (dieOfCore c) fun x => { x with drover := x.drover ++ [(c, w.ctx, t.id, bs)] },
        updCtx c w.ctx fun y => { y with wait := .drover }, stepDone c])) s
  | _ => onStop w t.id invalid s

/-- DROVER_REQUEST_START (R281). -/
def droverStartAct (d : Nat) : Act := fun s =>
  let x := s.die d
  if x.active || x.drover.isEmpty || !s.powerOk (s.partOfDie d) || (s.part (s.partOfDie d)).draining then []
  else [.die d fun y => { y with active := true }]

/-! ### Draws (R285, R286) -/

/-- What the draws of a request depend on: key, step, tensor. -/
structure Draws where
  key : DWord
  step : Nat
  tensor : Nat

/-- Draw d of frontier position p of hop h. -/
def Draws.draw (g : Draws) (h p d : Nat) : Nat :=
  let o := counterGen (drawCounter g.step 0 g.tensor ((h - 1) * 2 ^ 62 + p * 64 + d / 2)) g.key
  (if d % 2 = 0 then o.1 else o.2).toNat

/-- uniform(d, n) of a draw's value. -/
def uniform (u n : Nat) : Nat := u * n / 2 ^ 64

/-- The procedure of UNIFORM_NOREPL: f distinct positions below n, ascending. -/
def chooseDistinct (g : Draws) (h p n f : Nat) : List Nat :=
  sortBy (fun a b => decide (a ≤ b)) ((List.range f).foldl (fun chosen d =>
    let t := uniform (g.draw h p d) (n - f + d + 1)
    (if chosen.contains t then n - f + d else t) :: chosen) [])

/-- Cumulative weights of a node: neither negative, non-finite nor decreasing (R284). -/
def weightsOk : List Num → Bool
  | a :: b :: r => a.isFinite && !Num.lt a (.zero false) && !Num.lt b a && weightsOk (b :: r)
  | [a] => a.isFinite && !Num.lt a (.zero false)
  | [] => true

/-- Positions that WEIGHTED_REPL selects from the cumulative weights of a node. -/
def chooseWeighted (g : Draws) (h p f : Nat) (cw : List Num) : List Nat :=
  let total := cw.getLastD (.zero false)
  if total.isZero then []
  else (List.range f).map fun d =>
    let t := g.draw h p d / 2 ^ 40 % 2 ^ 24
    let x := roundFp32 { ovfInf := true } (Num.mul (Num.dyadic false t (-24)) total)
    (cw.findIdx? fun w => Num.lt x w).getD (cw.length - 1)

/-- Numbers of a table read by Drover. -/
def tableAt (s : State) (w : Who) (va : Bool) (a size n : Nat) : Except Stop (List Nat) :=
  (List.range n).mapM fun k => ((readRange s w.p w.ps w.core va (a + size * k) size).toExcept).map natOf

/-- The sampled neighbours of one frontier node (R284, R285). -/
def sampleNode (s : State) (w : Who) (d : Sampler) (g : Draws) (h p f v : Nat) : Except Stop (List Nat) := do
  if v = noIndex then pure []
  else if d.nodeLimit ≤ v then throw (.fault 0x3012 none)
  else
    let ends ← tableAt s w d.va (d.rowPtr + d.entry * v) d.entry 2
    let a := ends.getD 0 0
    let z := ends.getD 1 0
    if z < a ∨ d.edges < z then throw (.fault 0x3012 none)
    else
      let n := z - a
      if n = 0 then pure []
      else
        let ps ← match d.mode with
          | 0 => pure ((List.range f).map fun k => uniform (g.draw h p k) n)
          | 1 => pure (if n ≤ f then List.range n else chooseDistinct g h p n f)
          | _ => do
            let cw := (← tableAt s w d.va (d.cumw + 4 * a) 4 n).map Fmt.fp32.decode
            if !weightsOk cw then throw (.fault 0x3012 none)
            else pure (chooseWeighted g h p f cw)
        ps.mapM fun k => do
          let u ← tableAt s w d.va (d.colIdx + 4 * (a + k)) 4 1
          let v := u.headD 0
          if d.nodeLimit ≤ v ∧ v ≠ noIndex then throw (.fault 0x3012 none) else pure v

/-! ### Output (R287) -/

/-- Drover's outputs are stores of the task, which take their own share of the tracker (R288). Those of a request that overlaps another are
undefined bits (R281). -/
def droverWrite (w : Who) (task : Nat) (d : Sampler) (a : Nat) (bs : List Byte) : Run := fun s =>
  if (s.die (dieOfCore w.core)).clash.contains w.core then
    Run.all [taskWrite w droverSlot task d.va a ((List.range bs.length).map fun k => Config.freeByte s.free (a + k)), Run.act (Act.of [.draw 1])] s
  else taskWrite w droverSlot task d.va a bs false false s

/-- The nodes of one hop in order, each written as it is sampled; `k` goes on with the list of neighbours written. -/
def sampleHop (w : Who) (task : Nat) (d : Sampler) (g : Draws) (h f seg nb : Nat) (k : List Nat → Run) : List (Nat × Nat) → List Nat → Run
  | [], done => k done
  | (v, p) :: rest, done =>
    Run.read (fun s => sampleNode s w d g h p f v) fun ns =>
      let row := if d.pad then ns ++ List.replicate (f - ns.length) noIndex else ns
      Run.all [
        droverWrite w task d (nb + 4 * done.length) (row.flatMap (bytesOf 4)),
        droverWrite w task d (seg + 4 * (p + 1)) (bytesOf 4 (done.length + row.length)),
        Run.act (Act.count .dieDrvIndices (dieOfCore w.core) 0 ns.length),
        sampleHop w task d g h f seg nb k rest (done ++ row)]

/-- Hop after hop; `hdr` collects the header's pairs (n_h, len_h). -/
def sampleHops (w : Who) (task : Nat) (d : Sampler) (g : Draws) : Nat → List Nat → List (Nat × Nat) → List Nat → List (Nat × Nat) → Run
  | h, f :: fs, (seg, nb) :: ps, front, hdr =>
    Run.all [
      droverWrite w task d (d.out + seg) (bytesOf 4 0),
      sampleHop w task d g h f (d.out + seg) (d.out + nb) (fun l => sampleHops w task d g (h + 1) fs ps l (hdr ++ [(front.length, l.length)])) front.zipIdx []]
  | _, _, _, _, hdr =>
    let bs := hdr.flatMap fun e => bytesOf 4 e.1 ++ bytesOf 4 e.2
    droverWrite w task d d.out (bs ++ List.replicate (256 - bs.length) 0)

/-- The whole of a request of core c: its outputs, its entry gone, the core going on. -/
def droverRun (w : Who) (id d : Nat) (m : Sampler) (g : Draws) : Run :=
  Run.all [
    Run.read (fun s => tableAt s w m.va m.seedAt 4 m.seeds) fun seeds =>
      sampleHops w id m g 1 m.fan (outPlaces 256 m.seeds m.fan).1 seeds [],
    Run.act (Act.all [
      Act.of [.die d fun y => { y with drover := y.drover.drop 1, active := false, clash := y.clash.filter fun c => decide (c ≠ w.core) },
        .add ⟨.dieDrvRequests, d, 0⟩ 1, updCtx w.core w.ctx Ctx.advance]])]

/-- What the draws of a request depend on in the present state. -/
def drawsOf (s : State) (p : Nat) (m : Sampler) : Draws :=
  { key := s.reg ⟨.hostJobSeed, p, 0⟩, step := s.get F.hostTrainStepStep p, tensor := m.tensorId }

/-- DROVER_REQUEST_DONE: the request's outputs are written and its core goes on; a fault abandons it (R284). -/
def droverDoneAct (d : Nat) : Act := fun s =>
  let x := s.die d
  match x.active, x.drover with
  | true, (c, ctx, id, bs) :: _ =>
    (match s.task id, parseSampler bs with
    | some t, some m =>
      let w : Who := { p := t.p, core := c, ctx := ctx, ps := pasidKey s t.p t.q }
      if !s.powerOk t.p || (s.part t.p).draining then []
      else settle w id (droverRun w id d m (drawsOf s t.p m)) s
    | _, _ => [])
  | _, _ => []

/-- SAMPLE (R247). -/
def execSample (c : CoreIx) (s : State) : Host.Outcome State Fault Refusal := perform (sampleAct c) s
/-- A Drover takes its next request (R281). -/
def execDroverRequestStart (d : DieIx) (s : State) : Host.Outcome State Fault Refusal := perform (droverStartAct d) s
/-- A Drover ends a request (R287). -/
def execDroverRequestDone (d : DieIx) (s : State) : Host.Outcome State Fault Refusal := perform (droverDoneAct d) s

end Sys2Proof.Machine
end

