-- ==== Sys2Proof/Machine/Line.lean ====
section
/-! DEFINITION. The line side of a Garjor transmitter (R343): the scrambler, the RS(544,514) code and the striping over the lanes. The
parts that R343 takes from IEEE 802.3 (the field's polynomial, the generator polynomial) and the orders that it leaves open are in
log 10. -/

namespace Sys2Proof.Machine

/-- One bit through the self-synchronous scrambler 1 + x^39 + x^58; the last bits sent are the state, the newest lowest. -/
def scrambleBit (st : Nat) (b : Bool) : Nat × Bool :=
  let o := (b ^^ st.testBit 38) ^^ st.testBit 57
  ((2 * st + b2n o) % 2 ^ 58, o)

/-- The stream scrambled, the state after it first. -/
def scramble : Nat → List Bool → Nat × List Bool
  | st, [] => (st, [])
  | st, b :: r =>
    let x := scrambleBit st b
    let y := scramble x.1 r
    (y.1, x.2 :: y.2)

/-- Bits of bytes, the lowest bit of the first byte first. -/
def lineBits (bs : List Byte) : List Bool := bs.flatMap fun b => (List.range 8).map fun k => b.toNat.testBit k

/-- A symbol of GF(2^10) times x, modulo x^10 + x^3 + 1. -/
def gfTwice (a : Nat) : Nat := if a < 512 then 2 * a else (2 * a) ^^^ 0x409
/-- The product in GF(2^10). -/
def gfMul (a b : Nat) : Nat :=
  ((List.range 10).foldl (fun x k => (if b.testBit k then x.1 ^^^ x.2 else x.1, gfTwice x.2)) ((0, a) : Nat × Nat)).1
/-- α to the power n. -/
def gfPow : Nat → Nat
  | 0 => 1
  | n + 1 => gfTwice (gfPow n)

/-- The generator polynomial, the product of x + α^j for j below 30: its coefficients below the leading 1, highest first. -/
def rsGenerator : List Nat :=
  ((List.range 30).foldl (fun (g : List Nat) (j : Nat) => ((g ++ [0]).zip (0 :: g.map (gfMul (gfPow j)))).map fun (e : Nat × Nat) => e.1 ^^^ e.2) [1]).drop 1

/-- The 30 parity symbols of a message of symbols, first symbol highest. -/
def rsParity (msg : List Nat) : List Nat :=
  msg.foldl (fun r m =>
    let f := m ^^^ r.headD 0
    ((r.drop 1 ++ [0]).zip rsGenerator).map fun (e : Nat × Nat) => e.1 ^^^ gfMul f e.2) (List.replicate 30 0)

/-- Bits as symbols of ten, the first bit lowest. -/
def lineSymbols (n : Nat) (bits : List Bool) : List Nat :=
  (List.range n).map fun k => ((bits.drop (10 * k)).take 10).foldr (fun b v => b2n b + 2 * v) 0

/-- A codeword: 514 symbols of the stream and their parity. -/
def codeword (bits : List Bool) : List Nat :=
  let m := lineSymbols 514 bits
  m ++ rsParity m

/-- Symbols round-robin over the active lanes: each lane with its symbols. -/
def stripe (lanes : List Nat) (syms : List Nat) : List (Nat × List Nat) :=
  lanes.zipIdx.map fun e => (e.1, (syms.zipIdx.filter fun x => x.2 % lanes.length == e.2).map (·.1))

/-- Lanes of a port that are up. -/
def lanesUp (s : State) (g : Nat) : List Nat := (List.range 8).filter fun k => (s.get F.fabGpStatusLanesUp g).testBit k

/-- A flit's 256 bytes enter the line: scrambled, and with each 5,140 bits a codeword leaves over the lanes, after each 16,384
codewords a marker on every lane. A port without lanes sends nothing. -/
def lineSend (g : Nat) (bs : List Byte) : Act := fun s =>
  let lanes := lanesUp s g
  if lanes.isEmpty then []
  else
    let y := s.port g
    let x := scramble y.scr (lineBits bs)
    let line := y.line ++ x.2
    if line.length < 5140 then [.port g fun z => { z with scr := x.1, line := line }]
    else
      .port g (fun z => { z with scr := x.1, line := line.drop 5140, words := (z.words + 1) % 16384 }) ::
        .emit (.codeword g (stripe lanes (codeword (line.take 5140)))) ::
        (if y.words + 1 = 16384 then [.emit (.marker g lanes)] else [])

end Sys2Proof.Machine
end

