-- ==== Sys2Proof/Machine/Garjor.lean ====
section
/-! DEFINITION. Garjor: flits and their CRC (R346-R348), replay (R349), credits and arbitration (R350-R352), routing
(R354-R358), training (R361-R364) and low-power idle (R366). -/

namespace Sys2Proof.Machine

/-! ### CRC-32 of R347 -/

def crcBit (c : Nat) : Nat := if c % 2 = 1 then (c / 2) ^^^ 0xEDB88320 else c / 2
def crcByte (c : Nat) (b : Byte) : Nat := (List.range 8).foldl (fun x _ => crcBit x) (c ^^^ b.toNat)
/-- The CRC-32 of IEEE 802.3 of a list of bytes. -/
def crc32 (bs : List Byte) : Nat := (bs.foldl crcByte 0xFFFFFFFF) ^^^ 0xFFFFFFFF

/-! ### Headers (R346) -/

/-- Header bits [31:0]. -/
def flitHdr (ty vc seq ack : Nat) (ackValid last : Bool) : Nat :=
  ty + 8 * vc + 64 * seq + 2 ^ 18 * ack + (if ackValid then 2 ^ 30 else 0) + (if last then 2 ^ 31 else 0)

/-- The CRC of a flit: header bits [31:0], then the payload. -/
def flitCrc (hdr : Nat) (payload : List Byte) : Nat := crc32 (bytesOf 4 hdr ++ payload)

/-! ### Coordinates and routes (R354-R356) -/

/-- Coordinates of a rank. -/
def rankXyz (r : Nat) : List Nat := [r % 16, r / 16 % 16, r / 256 % 16]
def rankOf (c : List Nat) : Nat := c.getD 0 0 + 16 * c.getD 1 0 + 256 * c.getD 2 0

namespace State
def coords (s : State) : List Nat := [s.get F.fabCoordX, s.get F.fabCoordY, s.get F.fabCoordZ]
def rank (s : State) : Nat := rankOf s.coords
def dims (s : State) : List Nat := [s.get F.fabTorusDimXMinus1 + 1, s.get F.fabTorusDimYMinus1 + 1, s.get F.fabTorusDimZMinus1 + 1]
def penSize (s : State) : Nat := 2 ^ s.get F.fabTorusPenLog2
end State

/-- The port on which a packet for a rank leaves; none at its destination (R356). -/
def routePort (s : State) (dest : Nat) : Option Nat :=
  let me := s.coords
  let goal := rankXyz dest
  (List.range 3).findSome? fun k =>
    let n := s.dims.getD k 1
    let d := (goal.getD k 0 + n - me.getD k 0) % n
    if goal.getD k 0 = me.getD k 0 then none else if d ≤ n - d then some (2 * k) else some (2 * k + 1)

/-- The module that a port joins (R341). -/
def neighbour (s : State) (g : Nat) : List Nat :=
  let k := g / 2
  let n := s.dims.getD k 1
  s.coords.set k ((s.coords.getD k 0 + (if g % 2 = 0 then 1 else n - 1)) % n)

def portState (s : State) (g : Nat) : Nat := s.get F.fabGpStatusState g
/-- The port carries flits: UP, not in low-power idle and not in a fast retrain. -/
def portUp (s : State) (g : Nat) : Bool := portState s g == 2 && !s.flag F.fabGpStatusLpi g && !(s.port g).retraining

/-- The fabric interrupt (R372). -/
def fabIrq : Act := fun s => if s.flag F.fabIrqEn then sendMsix s.mgmt (s.get F.fabIrqVector) s else []

/-! ### Packets -/

def chunks (n : Nat) : Nat → List Byte → List (List Byte)
  | 0, _ => []
  | f + 1, bs => if bs.length ≤ n then [bs ++ List.replicate (n - bs.length) 0] else bs.take n :: chunks n f (bs.drop n)

/-- The flits of a packet of some bytes, route header first. -/
def pktFlits (bs : List Byte) : List (List Byte) := chunks 248 (bs.length + 1) bs

/-- A CTRL flit joins the queue of a port. -/
def pushCtrl (g : Nat) (c : Ctrl) : Upd := .port g fun y => { y with ctrlq := y.ctrlq ++ [c] }

/-- A packet enters the transmit queue of a port. -/
def enqueue (g : Nat) (k : Pkt) : Act := fun _ => [.port g fun y => { y with txq := y.txq ++ [k] }]

/-- Credits of n flits of a VC go back to the partner of a port (R351). -/
def creditBack : Option (Nat × Nat × Nat) → List Upd
  | some (g, vc, n) => if n = 0 then [] else [pushCtrl g (.credit (Fin.ofNat 8 vc) n 0)]
  | none => []

/-- Tally's receive buffer is full (R399). -/
def tallyFull (s : State) (p : Nat) : Bool := decide (Config.tallyBuffer ≤ (s.part p).tally.rx.length)

/-- A packet that has arrived whole, or that Tally sends: delivered, forwarded, or dropped where its partition does not exist
(R356, R358). A packet that came through a port gives its credits back as it leaves the port's buffer, unless Tally's buffer is full
(R351, R399). On VC_4 to VC_7 it is for the management core (R350). -/
def routePacket (vc : Nat) (tag : Option (Nat × Nat)) (via : Option (Nat × Nat × Nat)) (bs : List Byte) : Act := fun s =>
  let h := natOf (bs.take 8)
  let dest := h % 4096
  let p := h / 4096 % 4
  match routePort s dest with
  | some g => enqueue g { vc := vc, part := p, tag := tag, flits := pktFlits bs } s ++ creditBack via
  | none =>
    if !s.partExists p then logFault { code := 0x4006, scope := 0, part := none, unit := 4 } s ++ creditBack via
    else if 4 ≤ vc then .emit (.mgmtPacket vc bs) :: creditBack via
    else
      let x : RxPkt := { bytes := bs, time := s.time, held := if tallyFull s p then via else none }
      Upd.part p (fun y => { y with tally := { y.tally with rx := y.tally.rx ++ [x] } }) :: (if tallyFull s p then [] else creditBack via)

/-! ### Receiving (R347, R349, R351) -/

/-- Flits covered by an ACK leave the replay buffer; progress past the replayed SEQ restarts its count. -/
def Port.ack (y : Port) (ack : Nat) : Port :=
  match y.replay.findIdx? fun f => f.seq == ack with
  | none => y
  | some i =>
    let rest := y.replay.drop (i + 1)
    { y with replay := rest, back := Nat.min y.back rest.length,
             nakCount := if rest.any (fun f => f.seq == y.nakSeq) then y.nakCount else 0 }

/-- An out-of-order flit: the receiver discards until the SEQ that it expects, and asks for it once (R349). -/
def Port.reject (y : Port) : Port := if y.nakOut then y else { y with nakOut := true, nakDue := true }

/-- A discarded flit may be the one that was asked for, so the receiver asks again (R349, log 10). -/
def Port.lost (y : Port) : Port := { y with nakOut := true, nakDue := true }

def Port.accept (y : Port) : Port := { y with rxSeq := (y.rxSeq + 1) % 4096, rxAny := true, nakOut := false }

def hdrSeq (h : Nat) : Nat := h / 64 % 4096
def hdrAck (h : Nat) : Nat := h / 2 ^ 18 % 4096
/-- The ACK of a good header applied. -/
def ackUpd (g h : Nat) : List Upd := if h / 2 ^ 30 % 2 = 1 then [.port g fun y => y.ack (hdrAck h)] else []

/-- The codewords that end with a flit, by their symbol errors: the code corrects up to 15 symbols in each (R343, R376). -/
def fecUpd (g : Nat) (errs : List Nat) : List Upd :=
  [.add ⟨.fabGpFecCorr, g, 0⟩ (errs.filter fun e => decide (e ≤ 15)).sum, .add ⟨.fabGpFecUncorr, g, 0⟩ (errs.filter fun e => decide (15 < e)).length]

/-- The 64 bits of a received flit's header: bits [31:0] and the CRC (R346, R347). -/
def flitWord (x : RxFlit) : Nat := x.hdr.toNat + 2 ^ 32 * x.crc.toNat

/-- A flit of a type that is whole: its codewords were corrected and its CRC holds (R343, R347). -/
def flitGood (ty hdr : Nat) (payload : List Byte) (errs : List Nat) : Bool :=
  let h := hdr % 2 ^ 32
  errs.all (fun e => decide (e ≤ 15)) && flitCrc h payload == hdr / 2 ^ 32 && payload.length == 248 && h % 8 == ty

/-- A flit comes in on a port that carries flits: it is counted, discarded where it is not whole (R347), and else taken with its header. -/
def flitIn (g ty hdr : Nat) (payload : List Byte) (errs : List Nat) (take : Nat → Act) : Act := fun s =>
  if !(portUp s g || portState s g == 3) then []
  else if !flitGood ty hdr payload errs then fecUpd g errs ++ [.add ⟨.fabGpCrcErr, g, 0⟩ 1, .port g Port.lost]
  else Act.all [Act.of (fecUpd g errs ++ ackUpd g (hdr % 2 ^ 32)), take (hdr % 2 ^ 32)] s

/-- A DATA or CTRL flit in its place in the sequence is taken; any other is asked for (R349). -/
def inOrder (g h : Nat) (take : Act) : Act := fun s =>
  if hdrSeq h ≠ (s.port g).rxSeq then [.port g Port.reject] else Act.all [Act.of [.port g Port.accept], take] s

/-- DATA_FLIT: flits of a VC gather to a packet; credits go back as it leaves the port's buffer (R346, R351). -/
def dataFlitAct (g hdr : Nat) (payload : List Byte) (errs : List Nat) : Act :=
  flitIn g 1 hdr payload errs fun h => inOrder g h fun s =>
    let vc := h / 8 % 8
    let sofar := tget (s.port g).rx vc [] ++ [payload]
    let n := sofar.length - tget (s.port g).rxOld vc 0
    Act.all [
      Act.of [.add ⟨.fabGpRxFlits, g, 0⟩ 1],
      if h / 2 ^ 31 = 1 then Act.all [
        Act.of [.port g fun y => { y with rx := tdel y.rx vc, rxOld := tdel y.rxOld vc }],
        routePacket vc none (some (g, vc, n)) sofar.flatten]
      else Act.of [.port g fun y => { y with rx := tset y.rx vc sofar }]] s

/-- A recalibration ends, completed (R367, R376). -/
def recalEnded (g : Nat) : List Upd :=
  [.fld F.fabGpStatusState g 0 2, .add ⟨.fabGpRecals, g, 0⟩ 1, .port g fun y => { y with due := false, calAge := 0 }]

def partnerWord (c : List Nat) (k : Nat) : DWord := BitVec.ofNat 64 (rankOf [c.getD 0 0 % 16, c.getD 1 0 % 16, c.getD 2 0 % 16] + 4096 * (k % 8) + 2 ^ 15)

/-- The content of a CTRL flit takes effect (R351, R361, R362, R366, R367). The partner's report says which SEQ it expects, so that no flit
that it took goes again after a training (R349, R361, log 10). -/
def ctrlApply (g : Nat) (c : Ctrl) : Act := fun s =>
  match c with
  | .credit vc r n => [.port g fun y =>
      let now := y.credits.getD vc.val 0 + r
      { y with credits := y.credits.set vc.val (Nat.min 32 now), pool := Nat.min 1280 (y.pool + n + (now - 32)) }]
  | .identity x y z k _ _ _ _ _ next => [.reg ⟨.fabGpPartner, g, 0⟩ (partnerWord [x, y, z] k),
      .port g fun w => match next with
        | some q => if portState s g = 1 then w.ack ((q + 4095) % 4096) else w
        | none => w]
  | .presets taps => if portState s g = 1 then [.port g fun y => { y with taps := taps }] else []
  | .lpiPropose => if (s.port g).txq.isEmpty && (s.port g).ctrlq.isEmpty && (s.port g).back == 0 then [pushCtrl g .lpiAccept] else []
  | .lpiAccept => if (s.port g).lpiAsked then [.fld F.fabGpStatusLpi g 0 1, .port g fun y => { y with lpiAsked := false }] else []
  | .recalStart => [.fld F.fabGpStatusState g 0 3]
  | .recalEnd => if portState s g = 3 then recalEnded g else []

/-- CTRL_FLIT (R348): sequenced like DATA; while a port trains, its exchanges carry no sequence yet (R361). -/
def ctrlFlitAct (g hdr : Nat) (payload : List Byte) (errs : List Nat) (c : Ctrl) : Act := fun s =>
  if portState s g = 1 then
    (if !flitGood 2 hdr payload errs then fecUpd g errs ++ [.add ⟨.fabGpCrcErr, g, 0⟩ 1]
    else fecUpd g errs ++ (match c with
      | .identity .. | .presets _ => ctrlApply g c s
      | _ => []))
  else flitIn g 2 hdr payload errs (fun h => inOrder g h (ctrlApply g c)) s

/-- IDLE_FLIT (R344, R348): its ACK is applied, and it is discarded. -/
def idleFlitAct (g hdr : Nat) (payload : List Byte) (errs : List Nat) : Act := flitIn g 0 hdr payload errs fun _ => Act.skip

/-- NAK (R349): the transmitter goes back to the SEQ that its SEQ field names; where its own request is open it repeats it, which the
discarded flit may have been. -/
def nakAct (g hdr : Nat) (payload : List Byte) (errs : List Nat) : Act :=
  flitIn g 3 hdr payload errs fun h s =>
    let y := s.port g
    let ask : Upd := .port g fun y => { y with nakDue := y.nakDue || y.nakOut }
    match y.replay.findIdx? fun f => f.seq == hdrSeq h with
    | none => [ask]
    | some i => [ask, .port g (fun y => { y with back := y.replay.length - i, nakSeq := hdrSeq h, nakCount := if y.nakCount ≠ 0 ∧ y.nakSeq = hdrSeq h then y.nakCount + 1 else 1 }),
        .add ⟨.fabGpReplays, g, 0⟩ 1]

/-! ### Sending (R344, R349, R351, R352) -/

/-- The turns of one round of the weighted round robin (R352). -/
def wrr : List Nat := [0, 0, 0, 0, 1, 1, 1, 1, 2, 2, 2, 2, 4, 5, 6, 7]

/-- The packet of a VC whose flit goes next: the one begun, else the first of another partition than the last one sent, else
the first. -/
def vcPick (y : Port) (vc : Nat) : Option Pkt :=
  let ps := y.txq.filter fun k => k.vc == vc
  match ps.find? (·.begun) with
  | some k => some k
  | none => match ps.find? fun k => some k.part != (y.lastPart.find? fun e => e.1 == vc).map (·.2) with
    | some k => some k
    | none => ps.head?

def vcCredit (y : Port) (vc : Nat) : Bool := decide (0 < y.credits.getD vc 0) || decide (0 < y.pool)
def vcReady (y : Port) (vc : Nat) : Bool := (vcPick y vc).isSome && vcCredit y vc

/-- The VC that sends next and the turn after it. -/
def arbitrate (y : Port) : Option (Nat × Nat) :=
  if vcReady y 3 then some (3, y.turn)
  else (List.range 16).findSome? fun k =>
    let t := (y.turn + k) % 16
    if vcReady y (wrr.getD t 0) then some (wrr.getD t 0, (t + 1) % 16) else none

/-- The transmit queue after one flit of a packet has gone. -/
def takeFlit (k : Pkt) : List Pkt → List Pkt
  | [] => []
  | x :: r => if x = k then (match k.flits with
      | _ :: b :: t => { k with flits := b :: t, begun := true, sent := k.sent - 1 } :: r
      | _ => r) else x :: takeFlit k r

/-- A CTRL content as numbers. -/
def ctrlNums : Ctrl → List Nat
  | .credit vc r n => [2, vc.val, r, n]
  | .identity x y z k dx dy dz pen lay next => [3, x, y, z, k, dx, dy, dz, pen, lay, match next with
      | some q => q + 1
      | none => 0]
  | .presets taps => 4 :: taps
  | .lpiPropose => [5]
  | .lpiAccept => [6]
  | .recalStart => [7]
  | .recalEnd => [8]

/-- The payload of an IDLE, NAK or CTRL flit (log 10). -/
def openPayload (what : Nat) (content : List Nat) : List Byte := (List.range 248).map (Config.flitByte what content)
def ctrlPayload (c : Ctrl) : List Byte := openPayload ((ctrlNums c).headD 0) ((ctrlNums c).drop 1)

/-- The ACK field that a port sends now. -/
def Port.ackNow (y : Port) : Nat := (y.rxSeq + 4095) % 4096

/-- Bytes of a flit and its whole header. -/
def wholeHdr (h : Nat) (payload : List Byte) : Nat := h + 2 ^ 32 * flitCrc h payload

/-- A flit leaves: as what it is, and as bits on the line (R343, R346). -/
def flitOut (g h : Nat) (payload : List Byte) (what : Nat → Out) : Act := fun s =>
  let w := wholeHdr h payload
  Upd.emit (what w) :: lineSend g (bytesOf 8 w ++ payload) s

/-- A sequenced flit leaves: its header with the present ACK. -/
def emitSent (g : Nat) (y : Port) (f : Sent) : Act :=
  (match f.ctrl with
  | some c => flitOut g (flitHdr 2 0 f.seq y.ackNow y.rxAny false) (ctrlPayload c) fun w => .ctrlFlit g w (ctrlPayload c) c
  | none => flitOut g (flitHdr 1 f.vc f.seq y.ackNow y.rxAny f.last) f.payload fun w => .flit g w f.payload).seq
    (Act.of [.port g fun z => { z with sinceIdle := z.sinceIdle + 1 }])

/-- An IDLE flit. -/
def sendIdle (g : Nat) (y : Port) : Act :=
  (flitOut g (flitHdr 0 0 0 y.ackNow y.rxAny false) (openPayload 0 []) fun w => .bareFlit g w (openPayload 0 [])).seq
    (Act.of [.port g fun z => { z with sinceIdle := 0 }])

/-- A NAK that names the SEQ expected. -/
def sendNak (g : Nat) (y : Port) : Act :=
  (flitOut g (flitHdr 3 0 y.rxSeq y.ackNow y.rxAny false) (openPayload 1 []) fun w => .bareFlit g w (openPayload 1 [])).seq
    (Act.of [.port g fun z => { z with nakDue := false, sinceIdle := z.sinceIdle + 1 }])

/-- The next CTRL flit of the queue goes. -/
def sendCtrl (g : Nat) (y : Port) (c : Ctrl) : Act :=
  let f : Sent := { seq := y.txSeq, ctrl := some c, vc := 0, last := false, payload := [], tag := none }
  Act.all [
    Act.of [.port g fun z => { z with txSeq := (z.txSeq + 1) % 4096, replay := z.replay ++ [f], ctrlq := z.ctrlq.drop 1 }],
    emitSent g y f,
    match c with
    | .lpiAccept => Act.set F.fabGpStatusLpi g 0 1
    | .lpiPropose => Act.of [.port g fun z => { z with lpiAsked := true }]
    | _ => Act.skip]

/-- The next flit of the chosen VC goes; one that goes again after a training is not counted again (R376). -/
def sendData (g : Nat) (y : Port) (vc turn : Nat) (k : Pkt) : Act :=
  let f : Sent := { seq := y.txSeq, ctrl := none, vc := vc, last := decide (k.flits.length ≤ 1), payload := k.flits.headD [], tag := k.tag, part := k.part }
  Act.all [
    Act.of [.port g fun z => { z with
        txSeq := (z.txSeq + 1) % 4096, replay := z.replay ++ [f], txq := takeFlit k z.txq, turn := turn,
        lastPart := if f.last then tset z.lastPart vc k.part else z.lastPart,
        credits := if 0 < z.credits.getD vc 0 then z.credits.set vc (z.credits.getD vc 0 - 1) else z.credits,
        pool := if 0 < z.credits.getD vc 0 then z.pool else z.pool - 1 }],
    emitSent g y f,
    if k.sent = 0 then Act.of [.add ⟨.fabGpTxFlits, g, 0⟩ 1] else Act.skip]

/-- What this end reports of itself at a training (R361, R362). -/
def linkIdentity (s : State) (g : Nat) : Ctrl :=
  .identity (s.coords.getD 0 0) (s.coords.getD 1 0) (s.coords.getD 2 0) g (s.dims.getD 0 1) (s.dims.getD 1 1) (s.dims.getD 2 1)
    (s.get F.fabTorusPenLog2) s.layout (if (s.port g).rxAny then some (s.port g).rxSeq else none)

/-- Exchanges of a port that trains, unsequenced: the presets that it asks of the partner (values that the adaptation finds: log 1), then
its identity (R348, R361). -/
def trainExchange (g : Nat) : Act := fun s =>
  let y := s.port g
  let send := fun (c : Ctrl) => (flitOut g (flitHdr 2 0 0 0 false false) (ctrlPayload c) fun w => .ctrlFlit g w (ctrlPayload c) c).seq
    (Act.of [.port g fun z => { z with said := z.said + 1 }])
  match y.said with
  | 0 => (send (.presets ((List.range 6).map fun k => Config.freeNat (s.free + k)))).seq (Act.of [.draw 6]) s
  | 1 => send (linkIdentity s g) s
  | _ => []

/-- FLIT_TRANSMIT: one flit time of the port. IDLE at the latest with each 4,096th flit (R344); NAK, then resent flits, CTRL flits and
DATA flits in the order of R349 and R352. In a recalibration its CTRL exchange goes and DATA waits (R367, R368). -/
def flitTransmitAct (g : Nat) : Act := fun s =>
  let y := s.port g
  let recal := portState s g == 3
  let idle := sendIdle g y
  let next : Act :=
    if 4095 ≤ y.sinceIdle then idle
    else if y.nakDue then sendNak g y
    else if 0 < y.back then
      (match y.replay[y.replay.length - y.back]? with
      | some f => if recal && f.ctrl.isNone then idle else (emitSent g y f).seq (Act.of [.port g fun z => { z with back := z.back - 1 }])
      | none => idle)
    else if 1536 ≤ y.replay.length then idle
    else match y.ctrlq with
      | c :: _ => sendCtrl g y c
      | [] =>
        if recal then idle
        else match arbitrate y with
          | none => idle
          | some (vc, turn) => match vcPick y vc with
            | none => idle
            | some k => sendData g y vc turn k
  let wait := (List.range 8).any fun vc => (vcPick y vc).isSome && !vcCredit y vc
  if portState s g = 1 then trainExchange g s
  else if !(portUp s g || recal) then []
  else Act.all [next, if wait then Act.of [.add ⟨.fabGpCreditWait, g, 0⟩ 1] else Act.skip] s

/-! ### Training (R361-R364) -/

/-- The link starts afresh (R361 step 5): credits, sequence numbers and replay buffer initialised. Flits that no ACK covers go
again, first. -/
def Port.init (y : Port) : Port :=
  let again := y.replay.filter fun f => f.ctrl.isNone
  { y with
    txSeq := 0, replay := [], back := 0, nakCount := 0, rxSeq := 0, rxAny := false, nakOut := false, nakDue := false,
    credits := List.replicate 8 32, pool := 1280, ctrlq := [], sinceIdle := 0, due := false, calAge := 0, retraining := false,
    lpiAsked := false, rxOld := y.rx.map (fun e => (e.1, e.2.length)), line := [], words := 0,
    txq := again.foldr (fun f q => joinFront f q) y.txq }
where
  /-- A flit back in front of its packet's rest, or as a packet of its own. -/
  joinFront (f : Sent) (q : List Pkt) : List Pkt :=
    if f.last then { vc := f.vc, part := f.part, tag := f.tag, flits := [f.payload], begun := true, sent := 1 } :: q
    else match q.findIdx? fun k => k.vc == f.vc && k.begun with
      | some i => q.modify i fun k => { k with flits := f.payload :: k.flits, sent := k.sent + 1 }
      | none => { vc := f.vc, part := f.part, tag := f.tag, flits := [f.payload], begun := true, sent := 1 } :: q

/-- A write of TRAIN (R355, R361, R368, R371). -/
def trainEffect (g : Nat) : Act := fun s =>
  if s.dims.getD (g / 2) 1 = 1 then []
  else [.fld F.fabGpStatusState g 0 1, .fld F.fabGpStatusReason g 0 0, .fld F.fabGpStatusLpi g 0 0, .fld F.fabGpStatusLanesUp g 0 0,
    .fld F.fabGpStatusWidth g 0 0, .port g fun y => { y with retraining := false, due := false, lpiAsked := false, said := 0 }]

/-- TRAIN is refused with MISMATCH (R371). -/
def trainBad (s : State) : Bool :=
  (List.range 3).any (fun k => decide (s.dims.getD k 1 ≤ s.coords.getD k 0)) || s.dims.getD 2 1 % s.penSize != 0

/-- A port brought to OFF (R365, R373); what waits goes on waiting. -/
def portOff (g : Nat) : List Upd :=
  [.fld F.fabGpStatusState g 0 0, .fld F.fabGpStatusLanesUp g 0 0, .fld F.fabGpStatusWidth g 0 0, .fld F.fabGpStatusLpi g 0 0,
   .port g fun y => { y with retraining := false }]

def trainFail (g reason code : Nat) : Act :=
  Act.all [Act.of [.fld F.fabGpStatusState g 0 4, .fld F.fabGpStatusReason g 0 reason, .fld F.fabGpStatusLanesUp g 0 0, .fld F.fabGpStatusWidth g 0 0],
    logFault { code := code, scope := 0, part := none, unit := 4, slot := g }]

/-- The lanes that a port keeps: all eight, or the half that locked, low half first (R363). -/
def laneSet (lanes : Nat) : Option (Nat × Nat) :=
  if lanes % 256 = 0xFF then some (0xFF, 0) else if lanes % 16 = 0xF then some (0x0F, 1) else if lanes / 16 % 16 = 0xF then some (0xF0, 1) else none

/-- The port becomes UP (R361 step 5). Credits that Tally still held for it are among those initialised. -/
def trainUp (g lanes : Nat) : Act :=
  match laneSet lanes with
  | none => trainFail g 2 0x4003
  | some (l, w) => Act.of (.fld F.fabGpStatusState g 0 2 :: .fld F.fabGpStatusLanesUp g 0 l :: .fld F.fabGpStatusWidth g 0 w :: .port g Port.init ::
      (List.range 4).map fun p => Upd.part p fun y => { y with tally := { y.tally with rx := y.tally.rx.map fun x => if x.held.any (fun v => v.1 == g) then { x with held := none } else x } })

/-- TRAINING_END. -/
def trainingEndAct (g : Nat) (e : TrainEnd) : Act := fun s =>
  if portState s g ≠ 1 then []
  else match e with
    | .noLock => trainFail g 2 0x4003 s
    | .up lanes => Act.all [Act.of [.reg ⟨.fabGpPartner, g, 0⟩ (partnerWord (neighbour s g) (g ^^^ 1))], trainUp g lanes.toNat] s
    | .partner lanes x y z k dx dy dz pen lay =>
      let here := Act.of [.reg ⟨.fabGpPartner, g, 0⟩ (partnerWord [x, y, z] k)]
      if k ≠ g ^^^ 1 ∨ [x, y, z] ≠ neighbour s g then here.seq (trainFail g 3 0x4004) s
      else if [dx, dy, dz] ≠ s.dims ∨ pen ≠ s.get F.fabTorusPenLog2 ∨ lay ≠ s.layout then here.seq (trainFail g 4 0x4004) s
      else here.seq (trainUp g lanes.toNat) s

/-- NO_PARTNER. -/
def noPartnerAct (g : Nat) : Act := fun s => if portState s g = 1 then trainFail g 1 0x4003 s else []

/-- FAST_RETRAIN (R349, R363): one SEQ has been replayed 8 times without progress. A recalibration in progress ends (R368). -/
def fastRetrainAct (g : Nat) : Act := fun s =>
  if (portUp s g || portState s g == 3) && decide (8 ≤ (s.port g).nakCount) then
    [.fld F.fabGpStatusState g 0 2, .port g fun y => { y with retraining := true }]
  else []

/-- After a fast retrain the port sends again from the SEQ of the last NAK; training resets the due time (R349, R368). -/
def Port.retrained (y : Port) : Port :=
  { y with retraining := false, nakCount := 0, due := false, calAge := 0,
           back := y.replay.length - (y.replay.findIdx? fun f => f.seq == y.nakSeq).getD 0 }

/-- FAST_RETRAIN_COMPLETE (R363, R364). -/
def fastRetrainDoneAct (g lanes : Nat) : Act := fun s =>
  if !(s.port g).retraining then []
  else
    let old := s.get F.fabGpStatusLanesUp g
    let live := lanes % 256 &&& old
    let again : Upd := .port g Port.retrained
    if live = old then [again]
    else match laneSet live with
      | some (l, w) => Act.all [
          Act.of [again, .fld F.fabGpStatusLanesUp g 0 l, .fld F.fabGpStatusWidth g 0 w, .fld F.fabGpStatusNarrowed g 0 1],
          logFault { code := 0x4002, scope := 0, part := none, unit := 4, slot := g }, fabIrq] s
      | none => Act.all [
          Act.of [again, .fld F.fabGpStatusState g 0 5, .fld F.fabGpStatusLanesUp g 0 0, .fld F.fabGpStatusWentDown g 0 1],
          logFault { code := 0x4001, scope := 0, part := none, unit := 4, slot := g }, fabIrq] s

/-! ### Low-power idle (R366) -/

def nothingQueued (y : Port) : Bool := y.txq.isEmpty && y.ctrlq.isEmpty && y.back == 0 && !y.nakDue

/-- LPI_ENTRY: the folded end proposes low-power idle; the port enters it when the acceptance comes. -/
def lpiEntryAct (g : Nat) : Act := fun s =>
  if portUp s g && allFolded s && nothingQueued (s.port g) && !(s.port g).lpiAsked then [pushCtrl g .lpiPropose] else []

def lpiRefreshAct (g : Nat) : Act := fun s => if s.flag F.fabGpStatusLpi g then [.emit (.lpiPattern g false)] else []

/-- Something is queued for the port, or a partition is out of FOLD. -/
def lpiOver (s : State) (g : Nat) : Bool := !(s.port g).txq.isEmpty || !(s.port g).ctrlq.isEmpty || !allFolded s

/-- LPI_WAKE: the partner's wake pattern has come, or this end has a cause and sends its own. -/
def lpiWakeAct (g : Nat) (partner : Bool) : Act := fun s =>
  if !s.flag F.fabGpStatusLpi g then []
  else if partner then [.fld F.fabGpStatusLpi g 0 0]
  else if lpiOver s g then [.fld F.fabGpStatusLpi g 0 0, .emit (.lpiPattern g true)] else []

/-- Port training finishes (R361, R362). -/
def execTrainingEnd (g : PortIx) (e : TrainEnd) (s : State) : Host.Outcome State Fault Refusal := perform (trainingEndAct g e) s
/-- The partner is not commanded (R362). -/
def execNoPartner (g : PortIx) (s : State) : Host.Outcome State Fault Refusal := perform (noPartnerAct g) s
/-- A DATA flit arrives (R346-R349). -/
def execDataFlit (g : PortIx) (hdr crc : Word) (payload : List Byte) (errs : List Nat) (s : State) : Host.Outcome State Fault Refusal :=
  perform (dataFlitAct g (flitWord ⟨hdr, crc, payload⟩) payload errs) s
/-- A CTRL flit arrives (R348). -/
def execCtrlFlit (g : PortIx) (x : RxFlit) (errs : List Nat) (content : Ctrl) (s : State) : Host.Outcome State Fault Refusal := perform (ctrlFlitAct g (flitWord x) x.payload errs content) s
/-- An IDLE flit arrives (R344). -/
def execIdleFlit (g : PortIx) (x : RxFlit) (errs : List Nat) (s : State) : Host.Outcome State Fault Refusal := perform (idleFlitAct g (flitWord x) x.payload errs) s
/-- A NAK arrives (R349). -/
def execNak (g : PortIx) (x : RxFlit) (errs : List Nat) (s : State) : Host.Outcome State Fault Refusal := perform (nakAct g (flitWord x) x.payload errs) s
/-- A port sends a flit (R352). -/
def execFlitTransmit (g : PortIx) (s : State) : Host.Outcome State Fault Refusal := perform (flitTransmitAct g) s
/-- A fast retrain starts (R363). -/
def execFastRetrain (g : PortIx) (s : State) : Host.Outcome State Fault Refusal := perform (fastRetrainAct g) s
/-- A fast retrain ends (R363, R364). -/
def execFastRetrainComplete (g : PortIx) (lanes : BitVec 8) (s : State) : Host.Outcome State Fault Refusal := perform (fastRetrainDoneAct g lanes.toNat) s
/-- The port enters low-power idle (R366). -/
def execLpiEntry (g : PortIx) (s : State) : Host.Outcome State Fault Refusal := perform (lpiEntryAct g) s
/-- A refresh pattern (R366). -/
def execLpiRefresh (g : PortIx) (s : State) : Host.Outcome State Fault Refusal := perform (lpiRefreshAct g) s
/-- The port wakes (R366). -/
def execLpiWake (w : Wake) (s : State) : Host.Outcome State Fault Refusal :=
  match w with
  | .partner g => perform (lpiWakeAct g true) s
  | .own g => perform (lpiWakeAct g false) s

end Sys2Proof.Machine
end

