-- ==== Sys2Proof/Machine/Queues.lean ====
section
/-! DEFINITION. Command queues: doorbells (R203), fetch and check of descriptors (R262, R263), dispatch with the region check
(R199, R217), start on a core (R199, R200), hold, resume and skip (R204, R205), gates set by the host (R208) and the
configuration commit (R224). -/

namespace Sys2Proof.Machine

/-- A partition takes work: it exists, is not faulted and no abort or fault handling is under way (R470, R482). -/
def partOpen (s : State) (p : Nat) : Bool :=
  s.partExists p && !(s.part p).draining && !s.flag F.fltPartStatusFaulted p

/-- In STANDBY and OFF the doorbell pages and BAR4 read 0 and ignore writes; in RECOVERY they are absent (R472, R502). -/
def barsDead (s : State) : Bool :=
  s.get F.pwrStateModule == 4 || s.power.off || s.flag F.secLifecycleRecovery

/-- A doorbell (R203). -/
def doorbellAct (f : Fn) (p q tail : Nat) : Act := fun s =>
  let off := (p * 64 + q) * 0x1000
  if barsDead s || (s.fn f).perst then []
  else if !s.owns f p then cfgMark f { acc := true } 1 off true s
  else if !partOpen s p then cfgMark f { busy := true } 1 off true s
  else if !s.flag F.hostQCtrlEn p q then []
  else if ringSize s p q < (tail + 2 ^ 32 - s.get F.hostQHeadHead p q) % 2 ^ 32 then [.fld F.hostQStatusTailErr p q 1]
  else [.fld F.hostQTailTail p q tail]

/-! ### Task descriptors (R262) -/

/-- A task descriptor from its 64 bytes; none where it breaks R262. -/
def parseTask (bs : List Byte) : Option TaskDesc :=
  let v := natOf bs
  let u := fun (o w : Nat) => bits v (8 * o) w
  let block := u 0x00 64
  let mask := u 0x08 64 + 2 ^ 64 * u 0x10 64 + 2 ^ 128 * u 0x18 16
  let tc := u 0x1A 16
  let sig := u 0x1C 32
  let nw := bits tc 12 2
  let sigEn := bit tc 14
  let reg := u 0x30 64
  let inc := bits sig 16 16
  let waitOk := (List.range 2).all fun k => if k < nw then decide (u (0x20 + 8 * k) 32 < 4096) else u (0x20 + 8 * k) 64 == 0
  if block < 2 ^ 57 ∧ block % 16 = 0 ∧ tc < 2 ^ 15 ∧ nw ≠ 3 ∧ waitOk ∧ (if sigEn then decide (bits sig 12 4 = 0 ∧ inc ≠ 0) else sig == 0) ∧
      reg % 16 = 0 ∧ reg < 2 ^ 62 ∧ bits reg 57 5 ≤ 16 ∧ u 0x38 64 = 0 then
    some {
      block := block % 2 ^ 56, bva := bit block 56, mask := (List.range 144).filter (fun c => mask.testBit c), phase := bits tc 0 4,
      statGroup := bits tc 4 5, nonReplayable := bit tc 9, cpl := bit tc 10, irq := bit tc 11,
      waits := (List.range nw).map (fun k => (u (0x20 + 8 * k) 32, u (0x24 + 8 * k) 32)),
      signal := if sigEn then some (bits sig 0 12, inc) else none,
      regions := reg % 2 ^ 56, rva := bit reg 56, regionCount := bits reg 57 5 }
  else none

/-- The checks of R198 and R206. -/
def TaskDesc.ok (s : State) (p : Nat) (d : TaskDesc) : Bool :=
  d.mask.all (fun c => s.partOfCore c == p) && d.waits.all (fun w => gateOk s p w.1) &&
    (match d.signal with
    | some g => gateOk s p g.1
    | none => true)

/-- The next index of the ring that is neither completed nor dispatched. -/
def skipDone (s : State) (p q : Nat) : Nat → Nat → Nat
  | 0, i => i
  | n + 1, i =>
    if (s.queue p q).done.contains i || s.tasks.any (fun t => t.p == p && t.q == q && t.index == i) then skipDone s p q n ((i + 1) % 2 ^ 32) else i

/-- HEAD moves past every completed or skipped task, in order (R205). -/
def advanceHead (p q : Nat) : Act := fun s =>
  let h := s.get F.hostQHeadHead p q
  let n := (List.range 65537).find? fun k => !(s.queue p q).done.contains ((h + k) % 2 ^ 32)
  let h' := (h + n.getD 0) % 2 ^ 32
  if h' = h then []
  else [.fld F.hostQHeadHead p q h', .queue p q fun x => { x with done := x.done.filter fun i => laterIndex i h' || decide (i = h') }]

/-- TASK_DESCRIPTOR_FETCHED (R263): the descriptor of the next task arrives from its ring slot and is checked. The bytes of a
ring in host memory are those that the port delivered. -/
def descriptorArriveAct (p q : Nat) (host : List Byte) : Act := fun s =>
  let x := s.queue p q
  let i := skipDone s p q 65536 x.next
  let covered := decide ((i + 2 ^ 32 - s.get F.hostQHeadHead p q) % 2 ^ 32 < (s.get F.hostQTailTail p q + 2 ^ 32 - s.get F.hostQHeadHead p q) % 2 ^ 32)
  if !partOpen s p || !s.flag F.hostQCtrlEn p q || s.flag F.hostQStatusHeld p q || x.fetched.isSome || !covered then []
  else
    let a := s.get F.hostQBaseAddr p q * 64 + i % ringSize s p q * 64
    let ps := pasidKey s p q
    let hostAt : Option Nat := match translate s p ps true a false with
      | .ok l _ => if isHostLoc l ∧ host.length = 64 then some l else none
      | _ => none
    let here : Act := Act.of [.queue p q fun y => { y with next := i }]
    let bytes : RRes := if hostAt.isSome then .ok host else readRange s p ps 144 true a 64
    match bytes with
    | .needAts pg => here.seq (requestAts p ps pg (.fetch q)) s
    | .fault c ad va => here.seq (fetchFault p q c (some (ad, va))) s
    | .ok bs =>
      Act.all [
        here,
        match hostAt with
        | some l => Act.of (bs.zipIdx.map fun e => Upd.hostCell (hostFn l) (hostAddr l + e.2) e.1)
        | none => Act.skip,
        match parseTask bs with
        | some d => if d.ok s p then Act.of [.queue p q fun y => { y with fetched := some d }] else fetchFault p q 0x3003 none
        | none => fetchFault p q 0x3003 none] s

/-! ### Dispatch (R199, R217) -/

/-- A region table entry from its 16 bytes; none where it is bad by itself. -/
def parseRegion (v : Nat) : Option Region :=
  if bits v 56 8 = 0 ∧ bits v 107 21 = 0 ∧ bits v 64 40 ≠ 0 ∧ bits v 104 2 ≠ 3 then
    some { start := bits v 0 56, len := bits v 64 40, kind := bits v 104 2, va := bit v 106 }
  else none

def Region.overlaps (a b : Region) : Bool := a.va == b.va && decide (a.start < b.start + b.len ∧ b.start < a.start + a.len)

/-- A READ region meets a WRITE region, or a SCRATCH region meets any other (R217). -/
def Region.clash (a b : Region) : Bool := a.overlaps b && (a.kind == 2 || b.kind == 2 || a.kind != b.kind)

def regionsOk : List Region → Bool
  | [] => true
  | a :: r => r.all (fun b => !a.clash b) && regionsOk r

/-- The LIVE values that a task takes at its start (R5). -/
def liveSnap (s : State) (p q : Nat) : LiveSnap :=
  { statGroups := s.get F.telStatGroupsGroups p, watchEn := s.flag F.hostTrainWatchEn p, watchFirst := s.get F.hostTrainWatchFirst p,
    watchLast := s.get F.hostTrainWatchLast p, paramEn := s.flag F.hostTrainParamEn p, paramFirst := s.get F.hostTrainParamFirst p,
    paramLast := s.get F.hostTrainParamLast p, vector := s.get F.hostQCtrlVector p q }

/-- The task of the queue that has been fetched is dispatched with its regions. -/
def dispatchTask (p q : Nat) (d : TaskDesc) (rs : List Region) : Act := fun s =>
  let x := s.queue p q
  let t : Task := { id := s.nextId + 1, p := p, q := q, index := x.next, desc := d, regions := rs, ctx := s.get F.hostQCtrlCtx p q, dispatchTime := s.time, live := liveSnap s p q }
  Act.all [
    Act.of [.newId 1, .tasks fun l => l ++ [t], .queue p q fun y => { y with fetched := none, next := (y.next + 1) % 2 ^ 32 }],
    updRunning p q,
    traceRec 0 p q x.next] s

/-- Rejection at dispatch (R217): code 0x3010, the queue holds. -/
def rejectTask (p q : Nat) : Act := fun s =>
  let i := (s.queue p q).next
  Act.all [
    logFault { code := 0x3010, scope := 1, part := some p, unit := 4, queue := some q, index := i },
    traceRec 2 p q i,
    holdQueue p q i 2 0x3010 none] s

/-- TASK_DISPATCH (R199). -/
def dispatchAct (p q : Nat) : Act := fun s =>
  let x := s.queue p q
  match x.fetched with
  | none => []
  | some d =>
    if !partOpen s p || !s.powerOk p || !s.flag F.genStartupTiersReady || s.flag F.hostQStatusHeld p q || s.flag F.hostQStatusCplFull p q ||
        !d.waits.all (fun w => s.gateHolds w.1 w.2) then []
    else
      let ps := pasidKey s p q
      match readRange s p ps 144 d.rva d.regions (16 * d.regionCount) with
      | .needAts pg => requestAts p ps pg (.fetch q) false s
      | .fault c a va =>
        if c = 0x2006 then rejectTask p q s else fetchFault p q c (some (a, va)) s
      | .ok bs =>
        let v := natOf bs
        let rs := (List.range d.regionCount).map fun k => parseRegion (bits v (128 * k) 128)
        let ok := rs.filterMap id
        if rs.any Option.isNone || !regionsOk ok then rejectTask p q s else dispatchTask p q d ok s

/-! ### Start on a core (R199, R200) -/

/-- A persistent stream as a task finds it: at its start, with what run-ahead has fetched for the task by the descriptor that the stream now
has (R175, R176). What was meant for tasks that did not come is dropped. -/
def Stream.begin (id : Nat) (st : Stream) : Stream :=
  { st with boundBy := id, starts := (id, st.desc) :: st.starts, left := false, later := st.later.filter fun y => decide (id ≤ y.task) }

/-- A core begins a task in a context: its streams stand at their start, early binds for it and for later tasks stay (R175, R177). -/
def Core.begin (id x : Nat) (k : Core) : Core :=
  { k with
    ctxs := tset k.ctxs x { task := some id }
    running := if (k.ctx k.running).task.isNone then x else k.running
    streams := (k.streams.filter fun e => !(decide (e.1.1 = x) && e.2.early && decide (e.2.owner < id))).map fun e =>
      if e.1.1 = x ∧ !e.2.early then (e.1, (e.2.begin id).restart) else e }

/-- TASK_START: the earliest dispatched task that waits for this context of this core. -/
def startAct (c x : Nat) : Act := fun s =>
  let k := s.core c
  let p := s.partOfCore c
  if (k.ctx x).task.isSome ∨ !s.powerOk p ∨ (s.part p).draining then []
  else match s.tasks.find? (fun t => t.ctx == x && t.desc.mask.contains c && !t.started.contains c) with
    | none => []
    | some t =>
      ((k.streams.filter fun e => e.1.1 == x && !e.2.early && (e.2.begin t.id).armed.isSome).map fun e => ownReads c x e.1.2 t.id) ++
      [.core c (Core.begin t.id x),
       .tasks fun l => l.map fun u => if u.id = t.id then
          { u with started := c :: u.started, live := if u.started.isEmpty then liveSnap s p u.q else u.live } else u,
       .power fun y => { y with idle := y.idle.filter fun d => decide (d ≠ c / 36),
                                phases := tset y.phases (c / 36) (natInsert (tget y.phases (c / 36) []) t.desc.phase)
                                ran := (t.p, t.q) :: y.ran }]

/-! ### Commands of a queue's registers -/

/-- A new CPL_HEAD is out of range where CPL_TAIL - CPL_HEAD would exceed the ring (R229). -/
def cplHeadBad (s : State) (p q v : Nat) : Bool :=
  decide (ringSize s p q < (s.get F.hostQCplTailCplTail p q + 2 ^ 32 - v) % 2 ^ 32)

/-- A queue's machinery as its enabling leaves it (R227): indices 0, nothing held. -/
def queueReset (p q : Nat) : Act := fun _ =>
  [.reg ⟨.hostQHead, p, q⟩ 0, .reg ⟨.hostQTail, p, q⟩ 0, .reg ⟨.hostQCplHead, p, q⟩ 0, .reg ⟨.hostQCplTail, p, q⟩ 0,
   .queue p q fun _ => {}, .fld F.hostQStatusHeld p q 0, .fld F.hostQStatusCplFull p q 0, .fld F.hostQStatusRunning p q 0]

/-- RESUME of a held queue (R204): the descriptor is fetched again. -/
def resumeAct (p q : Nat) : Act := fun _ =>
  [.queue p q fun x => { x with held := none, heldCores := [], fetched := none }, .fld F.hostQStatusHeld p q 0]

/-- SKIP of a held task (R204): HEAD moves past it without its signal. -/
def skipAct (p q : Nat) : Act := fun s =>
  match (s.queue p q).held with
  | none => []
  | some i => Act.all [
      Act.of [.queue p q fun x => { x with held := none, heldCores := [], fetched := none, done := i :: x.done, next := if x.next = i then (i + 1) % 2 ^ 32 else x.next },
        .fld F.hostQStatusHeld p q 0],
      advanceHead p q] s

/-- A partition's queues are disabled and its queue registers take their reset values (R225, R466). -/
def queuesReset (p : Nat) : Act :=
  Act.all ((List.range 64).map fun q => (queueReset p q).seq (Act.of
    ([RegName.hostQBase, .hostQCplBase, .hostQCtrl, .hostQPasid, .hostQStatus].map (fun r => Upd.resetReg ⟨r, p, q⟩) ++ [.unstage ⟨.hostQCtrl, p, q⟩])))

/-- Every gate of a partition is 0 (R208, R225, R470). -/
def gatesZero (s : State) (p : Nat) : List Upd :=
  (List.range (4096 / s.nParts)).map fun k => Upd.resetReg ⟨.hostGate, p * (4096 / s.nParts) + k, 0⟩

/-- The staged set of R224 is consistent. -/
def cfgOk (s : State) (p : Nat) : Bool :=
  let n := s.stagedGet F.hostExecCtxCount p
  decide (n ≤ 2) && (n == 0 || s.partSize == 1) &&
    (List.range 64).all fun q => !s.flag F.hostQCtrlEn p q || decide (s.stagedGet F.hostQCtrlCtx p q < 2 ^ n)

/-- The staged set becomes the committed one. -/
def cfgApply (p : Nat) : Act := fun s =>
  Upd.fld F.hostExecCtxCount p 0 (s.stagedGet F.hostExecCtxCount p) ::
    (List.range 64).map fun q => Upd.fld F.hostQCtrlCtx p q (s.stagedGet F.hostQCtrlCtx p q)

/-- A doorbell (R203). -/
def execDoorbell (f : Fn) (p : PartIx) (q : QueueIx) (tail : Word) (s : State) : Host.Outcome State Fault Refusal := perform (doorbellAct f p q tail.toNat) s
/-- A task descriptor arrives (R262, R263). -/
def execTaskDescriptorFetched (p : PartIx) (q : QueueIx) (hostData : List Byte) (s : State) : Host.Outcome State Fault Refusal := perform (descriptorArriveAct p q hostData) s
/-- A task is dispatched (R199, R217). -/
def execTaskDispatch (p : PartIx) (q : QueueIx) (s : State) : Host.Outcome State Fault Refusal := perform (dispatchAct p q) s
/-- A task starts on a core (R200). -/
def execTaskStart (c : CoreIx) (x : CtxIx) (s : State) : Host.Outcome State Fault Refusal := perform (startAct c x) s

end Sys2Proof.Machine
end

