-- ==== Sys2Proof/Machine/Update.lean ====
section
/-! DEFINITION. The update engine (R314-R323): the update descriptor and its checks, the optimizers and the companions. -/

namespace Sys2Proof.Machine

/-- Companions of R314. -/
inductive Companion | lined | stochastic | master32
  deriving DecidableEq, Repr

def Companion.ofCode (n : Nat) : Companion := if n = 0 then .lined else if n = 1 then .stochastic else .master32

/-- An update descriptor (R319). -/
structure UpdDesc where
  tensorId : Nat
  bias : Bool
  count : Nat
  elemBase : Nat
  w : Nat
  g : Nat
  st : Nat
  comp : Nat
  hp : Nat
  deriving DecidableEq, Repr

/-- An update descriptor from its 64 bytes; none where a reserved bit is set or COUNT is 0 (R319, R321). -/
def parseUpdate (bs : List Byte) : Option UpdDesc :=
  let v := natOf bs
  let u := fun (o w : Nat) => bits v (8 * o) w
  let adr := [0x10, 0x18, 0x20, 0x28, 0x30].map fun o => u o 64
  if u 0 32 < 2 ^ 13 ∧ u 4 32 ≠ 0 ∧ u 8 64 < 2 ^ 40 ∧ adr.all (fun a => decide (a < 2 ^ 55)) ∧ u 0x30 64 % 32 = 0 ∧ u 0x38 64 = 0 then
    some { tensorId := u 0 12, bias := bit v 12, count := u 4 32, elemBase := u 8 64, w := adr.getD 0 0, g := adr.getD 1 0,
           st := adr.getD 2 0, comp := adr.getD 3 0, hp := adr.getD 4 0 }
  else none

/-- Lengths in bytes of the weight, moment and companion objects. -/
def UpdDesc.wLen (d : UpdDesc) : Nat := 2 * d.count
def UpdDesc.stLen (d : UpdDesc) (adamw : Bool) : Nat := if adamw then ceil256 (4 * d.count) + 4 * d.count else 4 * d.count
def UpdDesc.compLen (d : UpdDesc) : Companion → Nat
  | .lined => d.count
  | .stochastic => 0
  | .master32 => 4 * d.count

/-- An extent lies inside the basted range in force (R306). -/
def inBaste (s : State) (p a n : Nat) : Bool :=
  match basteRange s p with
  | some (b, z) => decide (b ≤ a ∧ a + n ≤ b + z)
  | none => false

/-- The checks of R321 on a descriptor. -/
def updCheck (s : State) (w : Who) (t : Task) (d : UpdDesc) (adamw : Bool) (k : Companion) : Except Stop Unit :=
  if tensorsOf s ≤ d.tensorId then .error (.fault 0x3006 none)
  else if (k == .stochastic) != (d.comp == 0) then .error (.fault 0x3006 none)
  else if !(inBaste s w.p d.w d.wLen && inBaste s w.p d.st (d.stLen adamw) && (k == .stochastic || inBaste s w.p d.comp (d.compLen k))) then
    .error (.fault 0x3006 none)
  else if !([((d.w : Int), d.wLen, false), (d.g, 4 * d.count, false), (d.st, d.stLen adamw, false), (d.comp, d.compLen k, false), (d.hp, 32, false)].all
      (coveredBy [0] t.regions true)) then .error (.fault 0x3011 none)
  else .ok ()

/-! ### One element (R314-R318, R322) -/

/-- Rounding r of R322. -/
def rInf (x : Num) : Num := roundFp32 { ovfInf := true } x
def fmaInf (a b c : Num) : Num := rInf (Num.add (Num.mul a b) c)

/-- Hyperparameters (R320). -/
structure Hyper where
  eta : Num
  lambda : Num
  b1 : Num
  b2 : Num
  eps : Num
  gradMul : Num
  deriving DecidableEq, Repr

/-- What an element's update depends on beside its own operands. -/
structure UpdEnv where
  hp : Hyper
  adamw : Bool
  bias : Bool
  comp : Companion
  e : Nat
  applied : Nat
  step : Nat
  key : DWord
  tensor : Nat

/-- Exponent of the quantum q(w) of a BF16 value. -/
def quantumExp (w : Num) : Int :=
  match w with
  | .fin _ n d e => max (floorLog2 n d e) (-126) - 7
  | _ => -133

/-- The effective value v of R314, exact. -/
def effective (c : Companion) (w : Num) (comp : Nat) : Num :=
  match c with
  | .lined => if w.isFinite then Num.add w ((Num.ofInt (signedOf 8 comp)).scale (quantumExp w - 8)) else w
  | .stochastic => w
  | .master32 => Fmt.fp32.decode comp

def v32 (c : Companion) (v : Num) : Num :=
  match c with
  | .lined => rInf v
  | _ => v

/-- New moments and the direction d of R322. -/
def direction (x : UpdEnv) (v g : Num) (m1 m2 : Num) : List Num × Num :=
  let h := x.hp
  if !x.adamw then
    let m := fmaInf h.b1 m1 g
    ([m], fmaInf h.lambda v m)
  else
    let one := fun (b : Num) => rInf (Num.sub numOne b)
    let n1 := fmaInf h.b1 m1 (rInf (Num.mul (one h.b1) g))
    let n2 := fmaInf h.b2 m2 (rInf (Num.mul (one h.b2) (rInf (Num.mul g g))))
    let t := rInf (Num.ofInt (x.applied + 1))
    let bc := fun (b : Num) => if x.bias then rInf (Num.sub numOne (rInf (fnExp (rInf (Num.mul t (rInf (fnLog b))))))) else numOne
    let den := rInf (Num.add (rInf (fnSqrt (rInf (Num.div n2 (bc h.b2))))) h.eps)
    let u := rInf (Num.div (rInf (Num.div n1 (bc h.b1))) den)
    ([n1, n2], fmaInf h.lambda v u)

/-- The 16 draw bits of element e (R317). -/
def roundingBits (x : UpdEnv) (e : Nat) : Nat :=
  let o := counterGen (drawCounter x.step 1 x.tensor (e / 8)) x.key
  (o.1.toNat + 2 ^ 64 * o.2.toNat) / 2 ^ (16 * (e % 8)) % 2 ^ 16

/-- BF16 bits of a value under OVF = INF. -/
def bf16Inf (x : Num) : Nat := (Fmt.bf16.convert { ovfInf := true } x).bits

/-- New weight bits and companion bits (R315, R316, R318). -/
def newWeight (x : UpdEnv) (e : Nat) (v delta : Num) : Nat × Nat :=
  let sum := Num.add v delta
  match x.comp with
  | .lined =>
    let w := bf16Inf sum
    let wv := Fmt.bf16.decode w
    let l := if wv.isFinite then (Fmt.int8.convert { sat := true } ((Num.sub sum wv).scale (8 - quantumExp wv))).bits else 0
    (w, l)
  | .stochastic =>
    let b := (toFp32 { ovfInf := true } sum).bits
    let xv := Fmt.fp32.decode b
    if xv.isNan then (0x7FC0, 0)
    else if !xv.isFinite then (b / 2 ^ 16, 0)
    else (b / 2 ^ 16 + (if roundingBits x e < b % 2 ^ 16 then 1 else 0), 0)
  | .master32 =>
    let m := (toFp32 { ovfInf := true } sum).bits
    (bf16Inf (Fmt.fp32.decode m), m)

/-- One element: new weight, companion and moments, as bits. -/
def updElem (x : UpdEnv) (e w comp g m1 m2 : Nat) : Nat × Nat × List Nat :=
  let v := effective x.comp (Fmt.bf16.decode w) comp
  let gv := rInf (Num.mul ((Fmt.fp32.decode g).scale (-(x.e : Int))) x.hp.gradMul)
  let r := direction x (v32 x.comp v) gv (Fmt.fp32.decode m1) (Fmt.fp32.decode m2)
  let delta := rInf (Num.mul x.hp.eta.neg r.2)
  let n := newWeight x e v delta
  (n.1, n.2, r.1.map fun y => (toFp32 { ovfInf := true } y).bits)

/-! ### The instruction -/

/-- A speculative write reaches the granules of a range (R308, R312). -/
def markSpec (p a n : Nat) : Act := fun s =>
  match basteRange s p with
  | none => []
  | some (b, _) =>
    let gs := (List.range ((a + n - 1 - b) / 2 ^ 21 + 1)).filter fun g => decide ((a - b) / 2 ^ 21 ≤ g)
    [.part p fun x =>
      let late := x.closing
      { x with
        baste := gs.foldl (fun m g => let o := tget m g {}; tset m g (if late then { o with late := true } else { o with dirty := true })) x.baste
        specs := if late then x.specs else (a, a + n) :: x.specs
        lateSpecs := if late then (a, a + n) :: x.lateSpecs else x.lateSpecs }]

/-- A speculative write of a task. -/
def specWrite (w : Who) (task a : Nat) (bs : List Byte) : Run :=
  if bs.isEmpty then Run.ok else Run.all [taskWrite w 16 task true a bs false true, Run.act (markSpec w.p a bs.length)]

/-- Numbers of `size` bytes from device space. -/
def deviceNums (s : State) (w : Who) (a size n : Nat) : Except Stop (List Nat) :=
  ((readRange s w.p w.ps w.core true a (size * n)).toExcept).map fun bs =>
    let v := natOf bs
    (List.range n).map fun k => bits v (8 * size * k) (8 * size)

/-- What the elements of an update depend on: the eight words at HP (R320), the word's form, and the partition's training registers. -/
def updEnv (s : State) (p : Nat) (d : UpdDesc) (adamw : Bool) (k : Companion) (hp : List Nat) : UpdEnv :=
  let f := fun (n : Nat) => Fmt.fp32.decode (hp.getD n 0)
  { hp := { eta := f 0, lambda := f 1, b1 := f 2, b2 := f 3, eps := f 4, gradMul := f 5 }
    adamw := adamw, bias := d.bias, comp := k, e := s.get F.hostTrainCfgGradScaleLog2 p, applied := s.get F.hostTrainAppliedApplied p
    step := s.get F.hostTrainStepStep p, key := s.reg ⟨.hostJobSeed, p, 0⟩, tensor := d.tensorId }

/-- The work of an UPDATE word. -/
def updateRun (i : HInstr) (t : Task) (w : Who) : Run :=
  match i with
  | .desc .update sub comp pc dva addr =>
    let adamw := sub == 1
    let k := Companion.ofCode comp
    Run.read (fun s => do
      let bs ← (readRange s w.p w.ps w.core dva (descAddr t w pc addr) 64).toExcept
      match parseUpdate bs with
      | none => throw (.fault 0x3006 none)
      | some d =>
        let _ ← updCheck s w t d adamw k
        let hp ← deviceNums s w d.hp 4 8
        if hp.getD 6 0 ≠ 0 ∨ hp.getD 7 0 ≠ 0 then throw (.fault 0x3006 none)
        else
          let x := updEnv s w.p d adamw k hp
          let ws ← if k == .master32 then pure [] else deviceNums s w d.w 2 d.count
          let gs ← deviceNums s w d.g 4 d.count
          let m1 ← deviceNums s w d.st 4 d.count
          let m2 ← if adamw then deviceNums s w (d.st + ceil256 (4 * d.count)) 4 d.count else pure []
          let cs ← match k with
            | .lined => deviceNums s w d.comp 1 d.count
            | .stochastic => pure []
            | .master32 => deviceNums s w d.comp 4 d.count
          let out := (List.range d.count).map fun n => updElem x (d.elemBase + n) (ws.getD n 0) (cs.getD n 0) (gs.getD n 0) (m1.getD n 0) (m2.getD n 0)
          pure (d, out)) fun r =>
      let d := r.1
      let out := r.2
      let cSize := match k with
        | .lined => 1
        | .stochastic => 0
        | .master32 => 4
      let bad := out.any fun o => !(Fmt.bf16.decode o.1).isFinite || o.2.2.any (fun m => !(Fmt.fp32.decode m).isFinite) ||
        (k == .master32 && !(Fmt.fp32.decode o.2.1).isFinite)
      let arrays := 3 + (if adamw then 1 else 0) + (if k == .stochastic then 0 else 1)
      Run.all [
        specWrite w t.id d.w (out.flatMap fun o => bytesOf 2 o.1),
        specWrite w t.id d.st (out.flatMap fun o => bytesOf 4 (o.2.2.getD 0 0)),
        if adamw then specWrite w t.id (d.st + ceil256 (4 * d.count)) (out.flatMap fun o => bytesOf 4 (o.2.2.getD 1 0)) else Run.ok,
        specWrite w t.id d.comp (out.flatMap fun o => bytesOf cSize o.2.1),
        Run.act (Act.all [
          Act.of [.tasks fun l => l.map fun u => if u.id = t.id ∧ bad then { u with nonfinite := true } else u],
          Act.count .coreVecElems (w.core / 36) (w.core % 36) (arrays * d.count),
          beats .coreVecBusy w.core])]
  | _ => Run.fail invalid

/-- UPDATE (R319-R323). -/
def updateAct (c : Nat) : Act := issue 0x29 c updateRun

/-- UPDATE (R322). -/
def execUpdate (c : CoreIx) (s : State) : Host.Outcome State Fault Refusal := perform (updateAct c) s

end Sys2Proof.Machine
end

