-- ==== Sys2Proof/Machine/Tally.lean ====
section
/-! DEFINITION. Tally: REDUCE-class instructions and their descriptors (R253-R255, R384), groups and stages (R380-R382), the
modes (R385-R395), packets (R397-R399), shepherds (R400, R401), outcomes (R379), shadows (R405, R406), the verdict
(R407-R409), aborts (R411) and noise sums (R412, R413). -/

namespace Sys2Proof.Machine

/-! ### Groups, stages and shadows -/

/-- A stage of a group's traversal at one rank: the axis, the coordinates of its members, this rank's number among them and
the start member (R380-R382). -/
structure Stage where
  axis : Nat
  coords : List Nat
  me : Nat
  start : Nat
  deriving DecidableEq, Repr

def Stage.n (g : Stage) : Nat := g.coords.length
/-- Place of this rank in the order of the visits. -/
def Stage.pos (g : Stage) : Nat := (g.me + g.n - g.start) % g.n
/-- Rank of member j, for the rank at the given coordinates. -/
def Stage.rank (g : Stage) (at_ : List Nat) (j : Nat) : Nat := rankOf (at_.set g.axis (g.coords.getD (j % g.n) 0))

/-- The pairs of the shadow map that are in force: primary and shadow (R405, R419). -/
def shadowPairs (s : State) (p : Nat) : List (Nat × Nat) :=
  (List.range 16).filterMap fun i =>
    if s.flag F.redShadowMapValid p i then some (s.get F.redShadowMapPrimary p i, s.get F.redShadowMapShadow p i) else none

/-- A rank stands in more than one valid entry (R419). -/
def shadowMapBad (s : State) (p : Nat) : Bool :=
  let rs := (shadowPairs s p).flatMap fun e => [e.1, e.2].eraseDups
  !(rs.eraseDups.length == rs.length)

def isShadow (s : State) (p r : Nat) : Bool := (shadowPairs s p).any fun e => e.2 == r

/-- The coordinates for which this rank acts, and whether it does so as a shadow (R405). -/
def acting (s : State) (p : Nat) : List Nat × Bool :=
  match (shadowPairs s p).find? fun e => e.2 == s.rank with
  | some e => (rankXyz e.1, true)
  | none => (s.coords, false)

/-- Stages of ring block b of a group for the rank at `at_` (R380, R382); `close` for STEP_CLOSE. Shadows are no members, and
an axis with one member gives no stage. -/
def stagesOf (s : State) (p : Nat) (at_ : List Nat) (close : Bool) (group b : Nat) : List Stage :=
  let stage := fun (k : Nat) (cs : List Nat) (chain : Bool) =>
    let ms := cs.filter fun x => !isShadow s p (rankOf (at_.set k x))
    ({ axis := k, coords := ms, me := (ms.findIdx? fun x => x == at_.getD k 0).getD 0, start := if chain then 0 else b % ms.length } : Stage)
  let full := fun k => stage k (List.range (s.dims.getD k 1)) close
  let pen := s.penSize
  let z := at_.getD 2 0
  let dz := s.dims.getD 2 1
  let all :=
    if close then [full 0, full 1, full 2]
    else if group = 0 then [full 0]
    else if group = 1 then [full 1]
    else if group = 2 then [stage 2 ((List.range pen).map fun k => z / pen * pen + k) (pen != dz)]
    else if group = 3 then [full 0, full 1]
    else [full 0, full 1, stage 2 ((List.range (dz / pen)).map fun k => z % pen + pen * k) false]
  all.filter fun g => decide (1 < g.n)

/-- Members of a group in ascending rank (R380). -/
def membersOf (s : State) (p : Nat) (at_ : List Nat) (group : Nat) : List Nat :=
  let pen := s.penSize
  let axis := fun k => List.range (s.dims.getD k 1)
  let own := fun k => [at_.getD k 0]
  let z := at_.getD 2 0
  let xs := if group = 0 ∨ group = 3 ∨ group = 4 then axis 0 else own 0
  let ys := if group = 1 ∨ group = 3 ∨ group = 4 then axis 1 else own 1
  let zs := if group = 2 then (List.range pen).map fun k => z / pen * pen + k
    else if group = 4 then (List.range (s.dims.getD 2 1 / pen)).map fun k => z % pen + pen * k
    else own 2
  (zs.flatMap fun z => ys.flatMap fun y => xs.map fun x => rankOf [x, y, z]).filter fun r => !isShadow s p r

/-- Shepherds of a group in ascending rank (R400, R401). -/
def shepherdsOf (s : State) (p : Nat) (at_ : List Nat) (group : Nat) : List Nat :=
  let k := 2 ^ s.get F.redShepShepLog2 p
  let xs := (List.range k).map fun i => i * s.dims.getD 0 1 / k
  (membersOf s p at_ group).filter fun r => group == 2 || xs.contains (r % 16)

/-! ### Ring blocks (R381, R401) -/

def blockCount (c : Collective) : Nat := ceilDiv c.count 1024
/-- First element and number of elements of ring block b. -/
def blockElems (c : Collective) (b : Nat) : Nat × Nat := (1024 * b, Nat.min 1024 (c.count - 1024 * b))

/-- An ALLGATHER in GROUP PEN: member i gives the i-th part of the tensor, so a ring block may hold parts of several members. -/
def Collective.penGather (c : Collective) : Bool := c.kind == .allgather && c.group == 2
def penPart (s : State) (c : Collective) : Nat := c.count / s.penSize

/-- Blocks that each shepherd owns: L of R401. -/
def shepShare (s : State) (p : Nat) (at_ : List Nat) (c : Collective) : Nat :=
  Nat.max 1 (ceilDiv (blockCount c) (shepherdsOf s p at_ c.group).length)

/-- The rank that owns ring block b (REDUCE_SCATTER), or that reads it from its SRC (ALLGATHER outside GROUP PEN). -/
def blockOwner (s : State) (p : Nat) (at_ : List Nat) (c : Collective) (b : Nat) : Nat :=
  (shepherdsOf s p at_ c.group).getD (b / shepShare s p at_ c) 0

/-- First element and number of elements that a rank gives to ring block b of an ALLGATHER. -/
def gatherPiece (s : State) (p : Nat) (at_ : List Nat) (c : Collective) (b r : Nat) : Nat × Nat :=
  let e := blockElems c b
  if c.penGather then
    let l := penPart s c
    match (membersOf s p at_ 2).findIdx? fun x => x == r with
    | some i =>
      let lo := Nat.max e.1 (i * l)
      (lo, Nat.min (e.1 + e.2) ((i + 1) * l) - lo)
    | none => (e.1, 0)
  else if blockOwner s p at_ c b = r then e else (e.1, 0)

/-- First element of what a rank gives to or owns of block b within its own shard. -/
def shardElem (s : State) (p : Nat) (at_ : List Nat) (c : Collective) (b : Nat) : Nat :=
  if c.penGather then (gatherPiece s p at_ c b (rankOf at_)).1 % Nat.max 1 (penPart s c) else b % shepShare s p at_ c * 1024

/-- Elements of the shard of the rank at `at_`: none where it owns no block. -/
def shardLen (s : State) (p : Nat) (at_ : List Nat) (c : Collective) : Nat :=
  if c.penGather then penPart s c
  else match (shepherdsOf s p at_ c.group).findIdx? fun r => r == rankOf at_ with
    | none => 0
    | some j =>
      let l := shepShare s p at_ c
      Nat.min ((j + 1) * l * 1024) c.count - j * l * 1024

/-- Elements of one scale block (R387, R388). -/
def scaleLen (mode : Nat) : Nat := if mode = 2 then 256 else 64

/-! ### Arithmetic of the modes -/

def f32 (b : Nat) : Num := Fmt.fp32.decode b
def f32Bits (x : Num) : Nat := (toFp32 { ovfInf := true } x).bits
def nanBits : Nat := 0x7FC00000
/-- round_fp32(a + b) (R386). -/
def f32Add (a b : Nat) : Nat := f32Bits (Num.add (f32 a) (f32 b))
def f32Bad (b : Nat) : Bool := !(f32 b).isFinite

/-- The reserved code 0x8000 of R389, held apart from every finite sum. -/
def wideNan : Int := 2147483648
/-- An integer of R389 and R390 in the 16 bits in which it travels. -/
def wideBits (q : Int) : Nat := if q = wideNan then 0x8000 else lowBits 16 q
def wideOfBits (v : Nat) : Int := if v = 0x8000 then wideNan else signedOf 16 v
/-- P × X as FP32 (R391, R392). -/
def wideValue (x : Nat) (q : Int) : Nat := if q = wideNan then nanBits else f32Bits (Num.mul (Num.ofInt q) (e8m0Value x))
/-- The integer that an operand contributes; none where it lies outside the range (R389). -/
def wideQ (x v : Nat) : Option Int :=
  let n := f32 v
  if !n.isFinite || x == 0xFF then some wideNan
  else
    let q := (n.scale (127 - (x : Int))).toInt
    if -32767 ≤ q ∧ q ≤ 32767 then some q else none
def wideSum (a b : Int) : Int := if a = wideNan ∨ b = wideNan then wideNan else a + b
def wideFits (q : Int) : Bool := q == wideNan || decide (-32767 ≤ q ∧ q ≤ 32767)

/-- One WIDE16 scale block: an operand added to the partial that has come in, if any (R389-R391). The result says whether the
block travels as FP32. -/
def wideOwn (x : Nat) (inc : Option (List Int × Bool)) (v : List Nat) : List Int × Bool :=
  match inc with
  | some (ps, true) => ((ps.zip v).map fun e => (f32Add e.1.toNat e.2 : Int), true)
  | _ =>
    let ps : List Int := match inc with
      | some (l, _) => l
      | none => v.map fun _ => 0
    let es := ps.zip v
    let sums := es.map fun e => (wideQ x e.2).map (wideSum e.1)
    if sums.all (fun t => t.any wideFits) then (sums.map fun t => t.getD 0, false)
    else (es.map fun e => match (wideQ x e.2).map (wideSum e.1) with
      | some t => (wideValue x t : Int)
      | none => (f32Bits (Num.add (f32 (wideValue x e.1)) (f32 e.2)) : Int), true)

/-- One WIDE16 scale block: the result of a line added to the partial that has come in (R390, R391). -/
def wideLine (x : Nat) (inc : List Int × Bool) (line : List Int × Bool) : List Int × Bool :=
  let fp := fun (a : List Int × Bool) => if a.2 then a.1 else a.1.map fun q => (wideValue x q : Int)
  if inc.2 || line.2 then ((fp inc).zip (fp line) |>.map fun e => (f32Add e.1.toNat e.2.toNat : Int), true)
  else
    let sums := (inc.1.zip line.1).map fun e => wideSum e.1 e.2
    if sums.all wideFits then (sums, false) else (sums.map fun q => (wideValue x q : Int), true)

def slice {α : Type} (l : List α) (k n : Nat) : List α := (l.drop (k * n)).take n
/-- Applies a function to the scale blocks of a block of n elements. -/
def perScale (n len : Nat) (f : Nat → List Int × Bool) : List Int × List Bool :=
  let rs := (List.range (ceilDiv n len)).map f
  (rs.flatMap (·.1), rs.map (·.2))

def Partial.scale (p : Partial) (k : Nat) : List Int × Bool := (slice p.vals k 64, p.esc.getD k false)

/-- The contribution of the first stage joined with the partial that has come in (R386-R395). -/
def joinOwn (c : Coll) (k : Blk) (inc : Option Partial) : List Int × List Bool :=
  let own := k.own.getD []
  let plain := fun (vs : List Int) (f : Int → Int → Int) => match inc with
    | some p => ((p.vals.zip vs).map fun e => f e.1 e.2, [])
    | none => (vs, [])
  match c.c.kind, c.mode with
  | .scalePrepass, _ => plain k.given max
  | _, 0 => plain (own.map Int.ofNat) fun a b => (f32Add a.toNat b.toNat : Int)
  | _, 1 => perScale own.length 64 fun j => wideOwn (k.scales.getD j 0) (inc.map fun p => p.scale j) (slice own j 64)
  | _, _ => plain k.given (· + ·)

/-- The result of this rank's line joined with the partial that has come in, in a later stage. -/
def joinLine (c : Coll) (k : Blk) (line inc : Partial) : List Int × List Bool :=
  let plain := fun (f : Int → Int → Int) => ((inc.vals.zip line.vals).map fun e => f e.1 e.2, ([] : List Bool))
  match c.c.kind, c.mode with
  | .scalePrepass, _ => plain max
  | _, 0 => plain fun a b => (f32Add a.toNat b.toNat : Int)
  | _, 1 => perScale line.vals.length 64 fun j => wideLine (k.scales.getD j 0) (inc.scale j) (line.scale j)
  | _, _ => plain (· + ·)

/-- A block's result as FP32 bits (R386, R392, R395). -/
def resultBits (c : Coll) (k : Blk) (p : Partial) : List Nat :=
  match c.mode with
  | 0 => p.vals.map (·.toNat)
  | 1 => p.vals.zipIdx.map fun e => if p.esc.getD (e.2 / 64) false then e.1.toNat else wideValue (k.scales.getD (e.2 / 64) 0) e.1
  | _ => p.vals.zipIdx.map fun e => f32Bits (Num.mul (Num.ofInt e.1) (e8m0Value (k.scales.getD (e.2 / 256) 0)))

/-- Bits of a result in DST_FMT, OVF = INF (R67). -/
def dstBits (f : Fmt) (v : Nat) : Nat := if f = .fp32 then (if (f32 v).isNan then 0x7FC00000 else v) else (f.convert { ovfInf := true } (f32 v)).bits

/-- The agreed scale of a pre-pass (R387, R388). -/
def agreedScale (mode h : Nat) (m : Int) : Nat :=
  if mode = 2 then m.toNat
  else match f32 m.toNat with
    | .fin _ n d e =>
      let code := floorLog2 n d e + 1 + (Nat.max h 1 : Nat) - 15 + 127
      if code < 0 then 0 else if 0xFE < code then 0xFE else code.toNat
    | .zero _ => 0
    | _ => 0xFF

/-! ### Packets (R397, R398) -/

def RedKind.code : RedKind → Nat
  | .allreduce => 0 | .reduceScatter => 1 | .allgather => 2 | .scalePrepass => 3 | .stepClose => 4

/-- Fields of a Tally header. -/
structure THdr where
  seq : Nat := 0
  block : Nat := 0
  kind : Nat := 0
  mode : Nat := 0
  stage : Nat := 3
  nonfinite : Bool := false
  flagOnly : Bool := false
  shadow : Bool := false
  src : Nat := 0
  group : Nat := 4
  gen : Nat := 0
  shape : Nat := 0
  letout : Nat := 0
  hops : Nat := 0
  late : Option Nat := none
  pcrc : Nat := 0
  deriving DecidableEq, Repr

def THdr.bytes (h : THdr) : List Byte :=
  List.flatten [bytesOf 4 h.seq, bytesOf 4 h.block, bytesOf 1 (h.kind + 16 * h.mode + 64 * h.stage),
    bytesOf 1 (b2n h.nonfinite + 2 * b2n h.flagOnly + 4 * b2n h.shadow), bytesOf 2 (h.src + 4096 * h.group), bytesOf 1 h.gen,
    bytesOf 1 h.shape, bytesOf 2 h.letout, bytesOf 2 h.hops, bytesOf 2 (match h.late with
      | some r => r % 4096 + 2 ^ 15
      | none => 0), bytesOf 4 h.pcrc]

/-- The header of a packet, after its route header. -/
def parseTHdr (bs : List Byte) : THdr :=
  let v := natOf ((bs.drop 8).take 24)
  { seq := bits v 0 32, block := bits v 32 32, kind := bits v 64 4, mode := bits v 68 2, stage := bits v 70 2,
    nonfinite := bit v 72, flagOnly := bit v 73, shadow := bit v 74, src := bits v 80 12, group := bits v 92 4, gen := bits v 96 8,
    shape := bits v 104 8, letout := bits v 112 16, hops := bits v 128 16, late := if bit v 159 then some (bits v 144 12) else none,
    pcrc := bits v 160 32 }

/-- Virtual channel of a kind (R398). -/
def tallyVc (kind group : Nat) : Nat := if 4 ≤ kind then 3 else if group = 2 then 2 else if kind = 2 then 1 else 0

/-- Sends a packet to a rank, and to its shadow where it has one (R405). -/
def sendTally (p dest : Nat) (h : THdr) (payload : List Byte) : Act := fun s =>
  let h' := { h with src := s.rank, gen := s.get F.redLayoutGenCur p, shadow := (acting s p).2, pcrc := crc32 payload }
  let dests := dest :: ((shadowPairs s p).filterMap fun e => if e.1 = dest ∧ e.2 ≠ s.rank then some e.2 else none)
  Act.each dests (fun d => routePacket (tallyVc h.kind h.group) (some (p, h.seq)) none
    (List.flatten [bytesOf 8 (d + 4096 * p), h'.bytes, payload])) s

def packElems (w : Nat) (vs : List Nat) : List Byte := bytesOf (ceilDiv (w * vs.length) 8) (packBits w vs)
def unpackElems (w n : Nat) (bs : List Byte) : List Nat :=
  let v := natOf bs
  (List.range n).map fun k => bits v (w * k) w

/-- Bits of a count after j contributions (R395). -/
def countBits (j : Nat) : Nat := if j ≤ 1 then 1 else Nat.log2 (2 * j + 1) + 1

/-- Payload of a partial. -/
def encodePartial (c : Coll) (p : Partial) : List Byte :=
  if p.flagOnly then []
  else
    let nats := p.vals.map (·.toNat)
    match c.c.kind, c.mode with
    | .allgather, _ => packElems c.c.srcFmt.bits nats
    | .scalePrepass, 2 => packElems 8 nats
    | .scalePrepass, _ => packElems 32 nats
    | _, 0 => packElems 32 nats
    | _, 1 => ((List.range (ceilDiv p.vals.length 64)).flatMap fun j =>
        let b := p.scale j
        if b.2 then packElems 32 (b.1.map (·.toNat)) else packElems 16 (b.1.map wideBits))
    | _, _ =>
      let w := countBits p.total
      packElems w (p.vals.map fun v => if w = 1 then (if v < 0 then 1 else 0) else lowBits w v)

/-- A partial of n elements (for a pre-pass: scale blocks) from its payload. -/
def decodePartial (c : Coll) (h : THdr) (n total : Nat) (bs : List Byte) : Partial :=
  let base : Partial := { total := total, hops := h.hops, flagOnly := h.flagOnly }
  let ints := fun (l : List Nat) => l.map Int.ofNat
  if h.flagOnly then base
  else match c.c.kind, c.mode with
    | .allgather, _ => { base with vals := ints (unpackElems c.c.srcFmt.bits n bs) }
    | .scalePrepass, 2 => { base with vals := ints (unpackElems 8 n bs) }
    | .scalePrepass, _ => { base with vals := ints (unpackElems 32 n bs) }
    | _, 0 => { base with vals := ints (unpackElems 32 n bs) }
    | _, 1 =>
      let esc := (List.range (ceilDiv n 64)).map fun j => bit h.letout j
      { base with esc := esc, vals := wide n bs esc }
    | _, _ =>
      let w := countBits total
      { base with vals := (unpackElems w n bs).map fun v => if w = 1 then (if v = 1 then -1 else 1) else signedOf w v }
where
  wide (n : Nat) (bs : List Byte) : List Bool → List Int
    | [] => []
    | e :: r =>
      let m := Nat.min 64 n
      if e then ((unpackElems 32 m bs).map Int.ofNat) ++ wide (n - m) (bs.drop (4 * m)) r
      else (unpackElems 16 m bs).map wideOfBits ++ wide (n - m) (bs.drop (2 * m)) r

/-! ### Tally's list -/

def findColl (s : State) (p seq : Nat) : Option Coll := (s.part p).tally.list.find? fun c => c.seq == seq

def updTally (p : Nat) (g : Tally → Tally) : Upd := .part p fun x => { x with tally := g x.tally }
def updColl (p seq : Nat) (g : Coll → Coll) : Upd := updTally p fun t => { t with list := t.list.map fun c => if c.seq = seq then g c else c }
def updBlk (p seq b : Nat) (g : Blk → Blk) : Upd := updColl p seq fun c => { c with blks := tset c.blks b (g (tget c.blks b {})) }

/-- Common header of a collective's packets. -/
def Coll.hdr (c : Coll) (b stage : Nat) : THdr :=
  { seq := c.seq, block := b, kind := c.c.kind.code, mode := c.mode, stage := stage, nonfinite := c.flag, group := c.c.group,
    shape := c.c.count % 256 }

/-- The non-finite flag of a gradient collective is set on this rank (R396). -/
def setFlag (p : Nat) (c : Coll) (bad : Bool) : Act := fun _ =>
  if bad && c.c.grad then [updColl p c.seq fun x => { x with flag := true }, .part p fun x => { x with flagGrad := true }] else []

/-! ### Tally's writes -/

/-- A write of Tally: one that fails is lost and logged (R300 has the like for records; log 13). -/
def tallyWrite (p a : Nat) (bs : List Byte) (spec : Bool := false) : Act := fun s =>
  if bs.isEmpty then []
  else match writeRange s p 0 true a spec bs with
    | .inl runs => Act.all [moduleStore runs, if spec then markSpec p a bs.length else Act.skip] s
    | .inr (.inl code) => logFault { code := code, scope := 0, part := some p, unit := 4, addr := some (a, true) } s
    | .inr (.inr _) => []

/-- Elements of `w` bits each from element e of a tensor on; neighbours in shared bytes keep their bits. -/
def tallyPut (p base w e : Nat) (vs : List Nat) : Act := fun s =>
  let o := w * e
  let n := w * vs.length
  let lo := o / 8
  let len := ceilDiv (o % 8 + n) 8
  let old := match readRange s p 0 144 true (base + lo) len with
    | .ok bs => natOf bs
    | _ => 0
  let new := packBits w vs
  let keep := old % 2 ^ (o % 8) + old / 2 ^ (o % 8 + n) * 2 ^ (o % 8 + n)
  tallyWrite p (base + lo) (bytesOf len (keep + new * 2 ^ (o % 8))) false s

/-- What this rank writes of ring block b, or of the piece that rank r gives to it: base, element width and first element. -/
def dstPlace (s : State) (p : Nat) (at_ : List Nat) (c : Coll) (b r : Nat) : Nat × Nat × Nat :=
  match c.c.kind with
  | .reduceScatter => (c.c.dst, c.c.dstFmt.bits, shardElem s p at_ c.c b)
  | .scalePrepass => (c.c.scaleBase, 8, b * (1024 / scaleLen c.c.mode))
  | .allgather => (c.c.dst, c.c.dstFmt.bits, (gatherPiece s p at_ c.c b r).1)
  | _ => (c.c.dst, c.c.dstFmt.bits, (blockElems c.c b).1)

/-- Every member that gives to ring block b of an ALLGATHER has had its piece written, the ranks in `ps` among them. -/
def gatherDone (s : State) (p : Nat) (at_ : List Nat) (c : Coll) (b : Nat) (ps : List Nat) : Bool :=
  !c.c.penGather || (membersOf s p at_ 2).all fun m => (gatherPiece s p at_ c.c b m).2 == 0 || ps.contains m

/-- The result of a ring block, or the piece of rank `from_`, is written on this rank. -/
def writeResult (p : Nat) (c : Coll) (b from_ : Nat) (r : Partial) : Act := fun s =>
  let at_ := (acting s p).1
  let d := dstPlace s p at_ c b from_
  let ps := from_ :: (tget c.blks b {}).parts
  let vs := match c.c.kind with
    | .scalePrepass => r.vals.map (agreedScale c.c.mode (s.get F.redCfgRedHeadroomBits p))
    | .allgather => r.vals.map (·.toNat)
    | _ => (resultBits c (tget c.blks b {}) r).map (dstBits c.c.dstFmt)
  Act.all [
    if r.flagOnly then Act.skip else tallyPut p d.1 d.2.1 d.2.2 vs,
    Act.of [updBlk p c.seq b fun k => { k with parts := ps, written := gatherDone s p at_ c b ps }]] s

/-- A result goes on to the other members of the first `upto` stages (R401, distribution). -/
def distribute (p : Nat) (c : Coll) (b upto : Nat) (r : Partial) : Act := fun s =>
  let a := acting s p
  let st := stagesOf s p a.1 false c.c.group b
  let flagOnly := r.flagOnly || c.flag
  let r' := { r with flagOnly := flagOnly }
  let h : THdr := { c.hdr b 3 with flagOnly := flagOnly, hops := r.hops, late := r.late, letout := (r.esc.zipIdx.foldl (fun x e => if e.1 then x + 2 ^ e.2 else x) 0) }
  if a.2 then []
  else Act.each (st.take upto) (fun g => Act.each ((List.range g.n).filter fun j => j != g.me) fun j => sendTally p (g.rank a.1 j) h (encodePartial c r')) s

/-- The sum of squares of R412, of values scaled by 2^-e. -/
def squares (e : Nat) (vs : List Nat) : Nat :=
  f32Bits (sum64 { ovfInf := true } (vs.map fun v =>
    let x := f32 (f32Bits ((f32 v).scale (-(e : Int))))
    f32 (f32Bits (Num.mul x x))))

/-- The holder has a block's result (R382, R401). -/
def holdResult (p : Nat) (c : Coll) (b : Nat) (r : Partial) : Act := fun s =>
  let a := acting s p
  let st := stagesOf s p a.1 false c.c.group b
  let k := tget c.blks b {}
  let q := if c.c.noise then some (if r.flagOnly then nanBits else squares c.e (resultBits c k r)) else none
  Act.all [
    Act.of [updBlk p c.seq b fun k => { k with gone := true, q := q }],
    if c.c.kind = .reduceScatter then
      let o := blockOwner s p a.1 c.c b
      if o = rankOf a.1 then writeResult p c b o r
      else if a.2 then Act.skip
      else
        let flagOnly := r.flagOnly || c.flag
        sendTally p o { c.hdr b 3 with flagOnly := flagOnly, hops := r.hops, late := r.late, letout := (r.esc.zipIdx.foldl (fun x e => if e.1 then x + 2 ^ e.2 else x) 0) }
          (encodePartial c { r with flagOnly := flagOnly })
    else (writeResult p c b (rankOf a.1) r).seq (distribute p c b st.length r)] s

/-- Scale blocks that escalate on this rank (R393, R420). -/
def escalated (p n : Nat) : Act :=
  if n = 0 then Act.skip else Act.of [.add ⟨.redEscalations, p, 0⟩ n, .part p fun x => { x with flagEscalated := true }]

/-- An escalated FP32 sum is infinite or NaN (R396). -/
def escBad (c : Coll) (j : List Int × List Bool) : Bool :=
  c.mode == 1 && c.c.kind != .scalePrepass && (j.1.zipIdx.any fun e => j.2.getD (e.2 / 64) false && f32Bad e.1.toNat)

/-- A ring block goes as far as it can on this rank (R382, R383). -/
def advanceBlk (p seq b : Nat) : Nat → Act
  | 0 => Act.skip
  | fuel + 1 => fun s =>
    match findColl s p seq with
    | none => []
    | some c =>
      let k := tget c.blks b {}
      let a := acting s p
      let st := stagesOf s p a.1 false c.c.group b
      if k.gone || k.own.isNone then []
      else match st[k.stage]? with
        | none =>
          match k.line with
          | some l => holdResult p c b l s
          | none =>
            let j : List Int × List Bool := if c.flag then ([], []) else joinOwn c k none
            let bad := escBad c j
            Act.all [
              escalated p (j.2.filter id).length,
              setFlag p c bad,
              holdResult p c b { vals := j.1, esc := j.2, flagOnly := c.flag || (bad && c.c.grad), total := 1, late := some s.rank }] s
        | some g =>
          let inc := (k.inc.find? fun e => e.1 == k.stage).map (·.2)
          if g.pos ≠ 0 ∧ inc.isNone then []
          else
            let inc := if g.pos = 0 then none else inc
            let own := k.stage == 0
            let quiet := c.flag || inc.any (·.flagOnly) || k.line.any (·.flagOnly)
            let j : List Int × List Bool :=
              if quiet then ([], [])
              else if own then joinOwn c k inc
              else match k.line, inc with
                | some l, some i => joinLine c k l i
                | some l, none => (l.vals, l.esc)
                | none, _ => ([], [])
            let was := fun (n : Nat) => inc.any (fun i => i.esc.getD n false) || (!own && k.line.any fun l => l.esc.getD n false)
            let fresh := (j.2.zipIdx.filter fun e => e.1 && !was e.2).length
            let bad := escBad c j
            let total := (inc.map (·.total)).getD 0 + (if own then 1 else (k.line.map (·.total)).getD 1)
            let late := match inc with
              | some i => i.late
              | none => if own then some s.rank else k.line.bind (·.late)
            let r : Partial := { vals := j.1, esc := j.2, flagOnly := quiet || (bad && c.c.grad), total := total, hops := g.pos + 1, late := late }
            Act.all [
              escalated p fresh,
              setFlag p c bad,
              if g.pos + 1 = g.n then
                (Act.of [updBlk p seq b fun k => { k with line := some r, stage := k.stage + 1 }]).seq (advanceBlk p seq b fuel)
              else Act.look fun s =>
                let c' := (findColl s p seq).getD c
                (Act.of [updBlk p seq b fun k => { k with gone := true }]).seq
                  (sendTally p (g.rank a.1 (g.me + 1)) { c'.hdr b g.axis with flagOnly := r.flagOnly, hops := r.hops, late := r.late, letout := (r.esc.zipIdx.foldl (fun x e => if e.1 then x + 2 ^ e.2 else x) 0) }
                    (encodePartial c' r))] s

/-- A partial's way on this rank has at most three stages. -/
def advance (p seq b : Nat) : Act := advanceBlk p seq b 4

/-! ### Operands -/

/-- The rank contributes ring block b: every member does to a reduction, its source to an ALLGATHER (R401). -/
def contributes (s : State) (p : Nat) (c : Coll) (b : Nat) : Bool :=
  match c.c.kind with
  | .allgather => (gatherPiece s p (acting s p).1 c.c b (rankOf (acting s p).1)).2 != 0
  | .stepClose => false
  | _ => true

/-- Values of `size` bytes each. -/
def numsOf (size n : Nat) (bs : List Byte) : List Nat := unpackElems (8 * size) n bs

/-- The sign and the new pocket element of one SIGN1 operand (R394). -/
def signElem (x v e : Nat) : Int × Nat × Nat :=
  let a := f32Add v e
  let neg := bit a 31
  let sg : Int := if neg then -1 else 1
  if f32Bad a then (sg, nanBits, a)
  else (sg, f32Bits (Num.sub (f32 a) (Num.mul (Num.ofInt sg) (e8m0Value x))), a)

/-- The local value of a scale block in a pre-pass (R387, R388), from the operand's FP32 bits and the pocket. -/
def localScale (mode : Nat) (vs es : List Nat) : Int :=
  if mode = 2 then
    let as := (vs.zip es).map fun e => f32Add e.1 e.2
    if as.any f32Bad then 0xFF
    else
      let sum := (as.map fun a => f32Bits (f32 a).abs).foldl (fun t a => match t with
        | none => some a
        | some x => some (f32Add x a)) none
      (convertE8m0 (f32 (f32Bits (Num.div (f32 (sum.getD 0)) (Num.ofInt as.length))))).bits
  else if vs.any f32Bad then 0x7F800000
  else f32Bits ((vs.map f32).foldl maxMag (.zero false))

/-- What a read of Tally for a collective does where it fails: poison is a partition fault (R479), any other failure leaves the
block without this rank's contribution (log 13). -/
def operandFault (p code a : Nat) (va : Bool) : Act :=
  if code ∈ [0x1001, 0x1002, 0x1004, 0x1005] then partitionFault { code := 0x1007, scope := 2, part := some p, unit := 4, addr := some (a, va) } p
  else logFault { code := code, scope := 0, part := some p, unit := 4, addr := some (a, va) }

/-- The operand, scales and pocket of a ring block. -/
def readOperand (s : State) (p : Nat) (c : Coll) (b : Nat) : RRes × RRes × RRes :=
  let at_ := (acting s p).1
  let e := if c.c.kind = .allgather then gatherPiece s p at_ c.c b (rankOf at_) else blockElems c.c b
  let rd := fun (a n : Nat) => if n = 0 then RRes.ok [] else readRange s p 0 144 true a n
  let w := c.c.srcFmt.bits
  let first := if c.c.kind = .allgather then shardElem s p at_ c.c b else e.1
  let sl := scaleLen c.mode
  let scaled := decide (c.c.kind ≠ .allgather ∧ c.c.kind ≠ .scalePrepass ∧ c.mode ≠ 0)
  let pocket := c.mode == 2
  (rd (c.c.src + first * w / 8) (ceilDiv (e.2 * w) 8), rd (c.c.scaleBase + e.1 / sl) (if scaled then ceilDiv e.2 sl else 0),
   rd (c.c.pocketBase + 4 * e.1) (if pocket then 4 * e.2 else 0))

/-- TALLY_OPERAND_READ: Tally reads what this rank gives to one ring block, while its partition is not folded (R442). -/
def operandReadAct (p seq b : Nat) : Act := fun s =>
  match findColl s p seq with
  | none => []
  | some c =>
    if folded s p ∨ blockCount c.c ≤ b ∨ (tget c.blks b {}).own.isSome ∨ !contributes s p c b then []
    else
      let at_ := (acting s p).1
      let e := if c.c.kind = .allgather then gatherPiece s p at_ c.c b (rankOf at_) else blockElems c.c b
      match readOperand s p c b with
      | (.ok xs, .ok sc, .ok pk) =>
        let raw := unpackElems c.c.srcFmt.bits e.2 xs
        if c.c.kind = .allgather then
          let r : Partial := { vals := raw.map Int.ofNat, total := 1 }
          let st := stagesOf s p at_ false c.c.group b
          Act.all [
            Act.of [updBlk p seq b fun k => { k with own := some raw, gone := true }],
            writeResult p c b (rankOf at_) r, distribute p c b st.length r] s
        else
          let vs := raw.map fun v => if c.c.srcFmt = .fp32 then v else f32Bits (c.c.srcFmt.decode v)
          let es := numsOf 4 e.2 pk
          let scales := sc.map (·.toNat)
          let sign := c.c.kind != .scalePrepass && c.mode == 2
          let sg := (vs.zip es).zipIdx.map fun t => signElem (scales.getD (t.2 / 256) 0) t.1.1 t.1.2
          let sl := scaleLen c.mode
          let given : List Int :=
            if c.c.kind = .scalePrepass then (List.range (ceilDiv e.2 sl)).map fun k => localScale c.mode (slice vs k sl) (slice es k sl)
            else sg.map (·.1)
          let bad := vs.any f32Bad || (sign && sg.any fun t => f32Bad t.2.2)
          Act.all [
            Act.of [updBlk p seq b fun k => { k with own := some vs, scales := scales, given := given }],
            setFlag p c bad,
            if sign then tallyWrite p (c.c.pocketBase + 4 * e.1) (sg.flatMap fun t => bytesOf 4 t.2.1) true else Act.skip,
            advance p seq b] s
      | (.fault code a va, _, _) | (_, .fault code a va, _) | (_, _, .fault code a va) => operandFault p code a va s
      | _ => []

/-! ### STEP_CLOSE and the verdict (R407-R409) -/

def CloseInfo.join (a b : CloseInfo) : CloseInfo :=
  { nonfinite := a.nonfinite || b.nonfinite, skew := a.skew || b.skew, gradNonfinite := a.gradNonfinite || b.gradNonfinite,
    missing := a.missing || b.missing, aborted := a.aborted || b.aborted, escalated := a.escalated || b.escalated,
    noiseInvalid := a.noiseInvalid || b.noiseInvalid, l := f32Add a.l b.l, q := f32Add a.q b.q, late := a.late }

/-- Payload of a STEP_CLOSE packet (log 10). -/
def CloseInfo.bytes (i : CloseInfo) : List Byte :=
  List.flatten [bytesOf 4 (b2n i.nonfinite + 2 * b2n i.skew + 4 * b2n i.gradNonfinite + 8 * b2n i.missing + 16 * b2n i.aborted +
    32 * b2n i.escalated + 64 * b2n i.noiseInvalid), bytesOf 4 i.l, bytesOf 4 i.q]
def parseClose (bs : List Byte) : CloseInfo :=
  let v := natOf (bs.take 12)
  { nonfinite := bit v 0, skew := bit v 1, gradNonfinite := bit v 2, missing := bit v 3, aborted := bit v 4, escalated := bit v 5,
    noiseInvalid := bit v 6, l := bits v 32 32, q := bits v 64 32 }

/-- The noise collectives of the step used more than one group. -/
def noiseMixed (t : Tally) : Bool := t.noise.any fun e => some e.2.1 != t.noise.head?.map (·.2.1)

/-- What this rank gives to STEP_CLOSE (R407, R412). -/
def closeOwn (x : Part) (c : Coll) : CloseInfo :=
  let add := fun (vs : List Nat) => (vs.foldl (fun t v => match t with
    | none => some v
    | some a => some (f32Add a v)) (none : Option Nat)).getD 0
  { nonfinite := c.close.nonfinite, skew := c.close.skew, gradNonfinite := x.flagGrad, missing := x.flagMissing, aborted := x.flagAborted,
    escalated := x.flagEscalated, noiseInvalid := x.tally.noise.isEmpty || x.tally.noiseBad || noiseMixed x.tally,
    l := add (x.tally.noise.map fun e => e.2.2.1), q := add (x.tally.noise.flatMap fun e => e.2.2.2) }

/-- A verdict as its packet carries it. -/
structure Verdict where
  step : Nat
  code : Nat
  escalated : Bool
  noiseInvalid : Bool
  l : Nat
  g : Nat
  deriving DecidableEq, Repr

def Verdict.bytes (v : Verdict) : List Byte :=
  List.flatten [bytesOf 6 v.step, bytesOf 2 (v.code + 8 * b2n v.escalated + 16 * b2n v.noiseInvalid), bytesOf 4 v.l, bytesOf 4 v.g]
def parseVerdict (bs : List Byte) : Verdict :=
  let v := natOf (bs.take 16)
  { step := bits v 0 48, code := bits v 48 3, escalated := bit v 51, noiseInvalid := bit v 52, l := bits v 64 32, g := bits v 96 32 }

/-- The verdict's code (R296). -/
def verdictCode (i : CloseInfo) : Nat :=
  if i.aborted then 3 else if i.missing then 2 else if i.skew then 4 else if i.nonfinite || i.gradNonfinite then 1 else 0

/-- Every rank of the torus that is no shadow. -/
def jobRanks (s : State) (p : Nat) : List Nat :=
  ((List.range (s.dims.getD 2 1)).flatMap fun z => (List.range (s.dims.getD 1 1)).flatMap fun y => (List.range (s.dims.getD 0 1)).map fun x =>
    rankOf [x, y, z]).filter fun r => !isShadow s p r

/-- The root forms the verdict from what it holds and sends it to every rank (R408, R413). Noise values are free where N is open, in a step
without a noise collective or with noise collectives of different groups (log 1). -/
def formVerdict (p : Nat) (c : Coll) (i : CloseInfo) (missing : Bool) : Act := fun s =>
  let t := (s.part p).tally
  let code := if missing then 2 else verdictCode i
  let n := match noiseMixed t, t.noise.head? with
    | false, some e => (membersOf s p (acting s p).1 e.2.1).length
    | _, _ => 0
  let value := fun (x m k : Nat) => if n = 0 then Config.freeNat (s.free + k) % 2 ^ 32 else f32Bits (Num.div (f32 x) (Num.ofInt m))
  let v : Verdict := {
    step := s.get F.hostTrainStepStep p % 2 ^ 48, code := code, escalated := i.escalated, noiseInvalid := i.noiseInvalid || code != 0
    l := value i.l n 0, g := value i.q (n * n) 1 }
  Act.all [
    Act.of [updColl p c.seq fun x => { x with closeGone := true }, .draw 2],
    Act.each (jobRanks s p) fun r => sendTally p r { seq := c.seq, kind := 5, group := 4, late := i.late } v.bytes] s

def closeOf (s : State) (p : Nat) : Option Coll := (s.part p).tally.list.find? fun c => c.c.kind == .stepClose

/-- STEP_CLOSE goes as far as it can: this rank gives its part once its earlier collectives have ended (R407, R408). -/
def advanceClose (p : Nat) : Nat → Act
  | 0 => Act.skip
  | fuel + 1 => fun s =>
    match closeOf s p with
    | none => []
    | some c =>
      let a := acting s p
      let st := stagesOf s p a.1 true 4 0
      let earlier := (s.part p).tally.list.any fun d => d.c.kind != .stepClose && laterIndex c.seq d.seq
      if c.closeGone || (c.closeStage == 0 && earlier) then []
      else
        let mine := if c.closeStage = 0 then { closeOwn (s.part p) c with late := some s.rank } else c.closeLine.getD {}
        match st[c.closeStage]? with
        | none => if a.2 then [] else formVerdict p c mine false s
        | some g =>
          let inc := (c.closeInc.find? fun e => e.1 == c.closeStage).map (·.2)
          if g.pos ≠ 0 ∧ inc.isNone then []
          else
            let r := match inc, decide (g.pos = 0) with
              | some i, false => i.join mine
              | _, _ => mine
            if g.pos + 1 = g.n then
              (Act.of [updColl p c.seq fun x => { x with closeLine := some r, closeStage := x.closeStage + 1 }]).seq (advanceClose p fuel) s
            else Act.all [
              Act.of [updColl p c.seq fun x => { x with closeGone := true }],
              sendTally p (g.rank a.1 (g.me + 1)) { c.hdr 0 g.axis with nonfinite := false, hops := g.pos + 1, late := r.late } r.bytes] s

/-! ### Hand-off (R255, R378, R385, R295) -/

/-- Collectives handed off now run in FULL32 (R385). -/
def forced32 (s : State) (p : Nat) : Bool := s.flag F.hostTrainStatusFresh p || s.flag F.redCfgSelfTest p

/-- One collective enters Tally's list. -/
def handOff (p : Nat) (c : Collective) : Act := fun s =>
  let x := s.part p
  if 256 ≤ x.tally.list.length then partitionFault { code := 0x5005, scope := 2, part := some p, unit := 4 } p s
  else
    let force := forced32 s p && c.kind != .scalePrepass
    let seq := s.get F.redSeqNext p
    let close : CloseInfo := if c.kind = .stepClose then { nonfinite := s.flag F.hostTrainStatusNonfinite p, skew := x.flagSkew } else {}
    let d : Coll := { seq := seq, c := c, mode := if force then 0 else c.mode, handoff := s.time, e := s.get F.hostTrainCfgGradScaleLog2 p, close := close }
    Act.all [
      Act.of [updTally p fun t => { t with list := t.list ++ [d] }, .fld F.redSeqNext p 0 ((seq + 1) % 2 ^ 32)],
      if force ∧ c.mode ≠ 0 then Act.count .redForced32 p 0 1 else Act.skip,
      if c.kind = .stepClose then
        (Act.of [.fld F.hostTrainStatusNonfinite p 0 0, .part p fun y => { y with flagSkew := false, closing := true }]).seq (advanceClose p 4)
      else Act.skip] s

/-! ### Ends (R379, R404, R411) -/

inductive Outcome4 | done | flagged | missing | aborted
  deriving DecidableEq, Repr

/-- The fixed fill of FLAGGED, MISSING and ABORTED on this rank (R379, R71). -/
def fillDst (p : Nat) (c : Coll) : Act := fun s =>
  let at_ := (acting s p).1
  match c.c.kind with
  | .stepClose => []
  | .scalePrepass => tallyPut p c.c.scaleBase 8 0 (List.replicate (ceilDiv c.c.count (scaleLen c.c.mode)) 0xFF) s
  | k =>
    let n := if k = .reduceScatter then shardLen s p at_ c.c else c.c.count
    tallyPut p c.c.dst c.c.dstFmt.bits 0 (List.replicate n (c.c.dstFmt.nanCode.getD (match c.c.dstFmt with
      | .e3m2 | .e2m3 | .e2m1 => (c.c.dstFmt.convert {} .nan).bits
      | _ => 0))) s

def insertNoise (e : Nat × Nat × Nat × List Nat) : List (Nat × Nat × Nat × List Nat) → List (Nat × Nat × Nat × List Nat)
  | [] => [e]
  | x :: r => if laterIndex x.1 e.1 then e :: x :: r else x :: insertNoise e r

/-- Operand elements of a ring block as FP32 bits: those read, else, where the collective ended before, those in memory. -/
def operandBits (s : State) (p : Nat) (c : Coll) (b : Nat) : List Nat :=
  match (tget c.blks b {}).own with
  | some vs => vs
  | none => match (readOperand s p c b).1 with
    | .ok xs => (unpackElems c.c.srcFmt.bits (blockElems c.c b).2 xs).map fun v => f32Bits (c.c.srcFmt.decode v)
    | _ => []

/-- Noise sums of a collective, whatever its outcome (R412). -/
def noiseEnd (s : State) (p : Nat) (c : Coll) : Nat × Nat × Nat × List Nat :=
  let bs := List.range (blockCount c.c)
  (c.seq, c.c.group, squares c.e (bs.flatMap (operandBits s p c)), bs.filterMap fun b => (tget c.blks b {}).q)

/-- A collective ends on this rank (R379): its fill, its gate, its counters, its parameter tag (R326). -/
def endColl (p : Nat) (c : Coll) (o : Outcome4) : Act := fun s =>
  let bad := o != .done
  let param := c.c.kind == .allgather && o == .done && s.flag F.hostTrainParamEn p &&
    decide (s.get F.hostTrainParamFirst p ≤ c.c.tensorId ∧ c.c.tensorId ≤ s.get F.hostTrainParamLast p)
  let i := tensorRec s p c.c.tensorId
  let wait := match c.waited with
    | some (t, _) => t - c.handoff
    | none => 0
  Act.all [
    if bad then fillDst p c else Act.skip,
    Act.of [updTally p fun t => { t with
      list := t.list.filter fun x => decide (x.seq ≠ c.seq)
      noise := if c.c.noise then insertNoise (noiseEnd s p c) t.noise else t.noise
      noiseBad := t.noiseBad || (c.c.noise && bad) }],
    if param then Act.of [.fld F.telPtagApplied i 0 (s.get F.hostTrainAppliedApplied p), .fld F.telPtagDelivery i 0 (s.get F.telPtagDelivery i + 1)] else Act.skip,
    gateAdd c.c.gate 1,
    Act.of [.add ⟨.redCollectives, p, 0⟩ 1, .add ⟨.redPeerWaitNs, p, 0⟩ wait],
    advanceClose p 4] s

/-- Ring block b is finished on this rank. -/
def blkDone (s : State) (p : Nat) (c : Coll) (b : Nat) : Bool :=
  let k := tget c.blks b {}
  let at_ := (acting s p).1
  match c.c.kind with
  | .allreduce | .scalePrepass => k.gone && k.written
  | .reduceScatter => k.gone && (k.written || blockOwner s p at_ c.c b != rankOf at_)
  | .allgather => k.written
  | .stepClose => false

/-- Every packet of the collective that this rank sends has been acknowledged by the next hop (R379). -/
def allSent (s : State) (p seq : Nat) : Bool :=
  (List.range 6).all fun g =>
    (s.port g).txq.all (fun k => k.tag != some (p, seq)) && (s.port g).replay.all (fun f => f.tag != some (p, seq))

/-- COLLECTIVE_DONE: DONE, or FLAGGED where the flag has reached this rank. -/
def collectiveDoneAct (p seq : Nat) : Act := fun s =>
  match findColl s p seq with
  | none => []
  | some c =>
    if c.c.kind != .stepClose && (List.range (blockCount c.c)).all (blkDone s p c) && allSent s p seq then
      endColl p c (if c.flag then .flagged else .done) s
    else []

/-- COLLECTIVE_MISSING (R404): RED_WAIT_LIMIT has passed since the hand-off. -/
def collectiveMissingAct (p seq : Nat) : Act := fun s =>
  match findColl s p seq with
  | none => []
  | some c =>
    if c.c.kind = .stepClose then []
    else Act.all [
      Act.of [.add ⟨.redMissing, p, 0⟩ 1, .part p fun x => { x with flagMissing := true }],
      logFault { code := 0x5001, scope := 0, part := some p, unit := 4 },
      endColl p c .missing] s

/-- Steps 1 and 2 of R411. -/
def abortStep (p : Nat) : Act := fun s =>
  Act.all [
    Act.of [.part p fun x => { x with flagAborted := true }],
    Act.each ((s.part p).tally.list.filter fun c => c.c.kind != .stepClose) fun c => endColl p c .aborted,
    logFault { code := 0x5008, scope := 0, part := some p, unit := 4 }] s

/-- FORCE while a layout is pending (R411): every other rank of the job hears of it, a shadow of this one too. -/
def layoutForceEffect (p : Nat) : Act := fun s =>
  let mine := (shadowPairs s p).filterMap fun e => if e.1 = s.rank ∧ e.2 ≠ s.rank then some e.2 else none
  Act.all [
    Act.each ((jobRanks s p).filter (fun r => r != s.rank) ++ mine) fun r =>
      sendTally p r { kind := 6, group := 4 } (bytesOf 8 (s.get F.hostTrainStepStep p % 2 ^ 48)),
    abortStep p] s

/-- COMMIT of the staged layout is consistent (R410). -/
def layoutOk (s : State) (p : Nat) : Bool :=
  decide (2 ^ s.stagedGet F.redShepShepLog2 p ≤ s.dims.getD 0 1) && s.stagedGet F.redShepGen p == (s.get F.redLayoutGenCur p + 1) % 256

def layoutCommitEffect (p : Nat) : Act := fun s =>
  let set := (s.stagedGet F.redShepShepLog2 p, s.stagedGet F.redShepGen p)
  [.fld F.redLayoutPending p 0 1, updTally p fun t => { t with layout := some set }]

/-- The layout that waits takes effect at the boundary (R410). -/
def layoutBoundary (p : Nat) : Act := fun s =>
  match (s.part p).tally.layout with
  | none => []
  | some (l, g) => [.fld F.redShepShepLog2 p 0 l, .fld F.redShepGen p 0 g, .fld F.redLayoutGenCur p 0 g, .fld F.redLayoutPending p 0 0,
      updTally p fun t => { t with layout := none }]

/-! ### Receiving (R399, R402, R406) -/

/-- What is to become of a packet in the receive buffer. -/
inductive Fate | waits | drop | bad (code : Nat) | use
  deriving DecidableEq, Repr

/-- A packet's generation against the layout in force and the one that waits (R410). -/
def genFate (s : State) (p gen : Nat) : Fate :=
  if gen = s.get F.redLayoutGenCur p then .use
  else if (s.part p).tally.layout.any (fun l => l.2 == gen) then .waits else .bad 0x5003

/-- Fate of a packet of a collective (R399). -/
def packetFate (s : State) (p : Nat) (h : THdr) : Fate :=
  match findColl s p h.seq with
  | none =>
    if laterIndex (s.get F.redSeqNext p) h.seq then .drop
    else genFate s p h.gen
      |> fun f => if f = .use then .waits else f
  | some c =>
    match genFate s p h.gen with
    | .use =>
      if h.kind ≠ c.c.kind.code ∨ h.mode ≠ c.mode ∨ h.group ≠ c.c.group ∨ h.shape ≠ c.c.count % 256 then .bad 0x5002
      else if h.stage = 3 ∧ c.mode ≠ 0 ∧ c.c.kind ≠ .allgather ∧ c.c.kind ≠ .scalePrepass ∧ (tget c.blks h.block {}).own.isNone then .waits
      else .use
    | f => f

/-- The first packet of the buffer that passes a test and need not wait, with the buffer without it. -/
def takeRx (t : RxPkt → Fate) : List RxPkt → Option (RxPkt × Fate × List RxPkt)
  | [] => none
  | x :: r =>
    match t x with
    | .waits => (takeRx t r).map fun e => (e.1, e.2.1, x :: e.2.2)
    | f => some (x, f, r)

/-- A packet leaves Tally's receive buffer: credits that Tally held for it, and for packets that now have room, go back (R399). -/
def rxTaken (p : Nat) (x : RxPkt) (rest : List RxPkt) : List Upd :=
  let room := rest.zipIdx.map fun e => (e.1, decide (e.2 < Config.tallyBuffer))
  updTally p (fun t => { t with rx := room.map fun e => if e.2 then { e.1 with held := none } else e.1 }) ::
    (creditBack x.held ++ room.flatMap fun e => if e.2 then creditBack e.1.held else [])

/-- A fault of Tally that escalates (R421). -/
def tallyFault (p code : Nat) : Act :=
  (if code = 0x5002 then Act.set F.redStatusSeqFault p 0 1 else Act.skip).seq
    (partitionFault { code := code, scope := 2, part := some p, unit := 4 } p)

/-- The second copy of a packet, from a primary or its shadow (R406). -/
def compareCopy (p : Nat) (f : FirstCopy) (h : THdr) (time : Nat) : Act := fun s =>
  if f.shadow ≠ h.shadow ∧ time ≤ f.time + 1000 * s.get F.redWaitRedCompareWindow p ∧ f.pcrc ≠ h.pcrc then
    Act.all [
      Act.of [.add ⟨.redDivergence, p, 0⟩ 1, .fld F.redStatusDiverged p 0 1, .part p fun x => { x with flagMissing := true }],
      logFault { code := 0x5004, scope := 0, part := some p, unit := 4 }] s
  else []

/-- The arrival of a packet that this rank's own hand-off preceded is a wait (R402), with the LATE field of the last such packet. -/
def noteWait (p : Nat) (c : Coll) (h : THdr) (time : Nat) : Act := fun _ =>
  if c.waited.any (fun w => decide (time < w.1)) then []
  else if c.handoff < time then
    [updColl p c.seq fun x => { x with waited := some (time, h.late) }, .fld F.redLateRank p 0 (h.late.getD 0), .fld F.redLateValid p 0 (b2n h.late.isSome)]
  else []

/-- LATE of what this rank sends after it received a packet. -/
def lateOf (s : State) (c : Coll) (h : THdr) (time : Nat) : Option Nat := if c.handoff < time then h.late else some s.rank

/-- Contributions that the partial of a stage, or a whole group's result, has summed. -/
def contributions (st : List Stage) (stage hops : Nat) : Nat := ((st.take stage).foldl (fun t g => t * g.n) 1) * hops

/-- A packet of a collective takes effect. -/
def usePacket (p : Nat) (x : RxPkt) (h : THdr) (c : Coll) : Act := fun s =>
  let a := acting s p
  let b := h.block
  let payload := x.bytes.drop 32
  if c.c.kind = .stepClose then
    let st := stagesOf s p a.1 true 4 0
    match c.closeFirsts.find? fun f => f.stage == h.stage with
    | some f => compareCopy p f h x.time s
    | none =>
      match st.findIdx? fun g => g.axis == h.stage with
      | none => []
      | some k => Act.all [
          Act.of [updColl p c.seq fun y => { y with
            closeInc := tset y.closeInc k { parseClose payload with late := lateOf s c h x.time }
            closeFirsts := { stage := h.stage, src := h.src, pcrc := h.pcrc, time := x.time, shadow := h.shadow } :: y.closeFirsts }],
          noteWait p c h x.time,
          advanceClose p 4] s
  else
    let st := stagesOf s p a.1 false c.c.group b
    let k := tget c.blks b {}
    let src := rankOf (rankXyz (((shadowPairs s p).find? fun e => e.2 == h.src).map (·.1) |>.getD h.src))
    let len := if c.c.kind = .allgather then (gatherPiece s p a.1 c.c b src).2 else (blockElems c.c b).2
    let n := if c.c.kind = .scalePrepass then ceilDiv len (scaleLen c.mode) else len
    let first : FirstCopy := { stage := h.stage, src := src, pcrc := h.pcrc, time := x.time, shadow := h.shadow }
    if blockCount c.c ≤ b then []
    else match k.firsts.find? fun f => f.stage == h.stage && (!c.c.penGather || f.src == src) with
    | some f => compareCopy p f h x.time s
    | none =>
      let common := Act.all [
        Act.of [updBlk p c.seq b fun y => { y with firsts := first :: y.firsts }],
        noteWait p c h x.time,
        setFlag p c h.nonfinite]
      if h.stage = 3 then
        let total := contributions st st.length 1
        let r := { decodePartial c h n total payload with late := lateOf s c h x.time }
        let from_ := rankXyz h.src
        let upto := (st.findIdx? fun g => from_.getD g.axis 0 != a.1.getD g.axis 0).getD 0
        Act.all [
          common,
          writeResult p c b src r,
          if c.c.kind = .reduceScatter then Act.skip
          else Act.look fun s => distribute p ((findColl s p c.seq).getD c) b upto r] s
      else match st.findIdx? fun g => g.axis == h.stage with
        | none => []
        | some j =>
          let r := { decodePartial c h n (contributions st j h.hops) payload with late := lateOf s c h x.time }
          Act.all [
            common,
            Act.of [updBlk p c.seq b fun y => { y with inc := tset y.inc j r }],
            advance p c.seq b] s

/-- TALLY_PACKET (R399): the first packet of a collective in the buffer that need not wait. Packets for a folded partition wait (R443). -/
def tallyPacketAct (p : Nat) : Act := fun s =>
  if folded s p then []
  else match takeRx (fun x => let h := parseTHdr x.bytes; if h.kind = 5 ∨ h.kind = 6 then .waits else packetFate s p h) (s.part p).tally.rx with
  | none => []
  | some (x, f, rest) =>
    let h := parseTHdr x.bytes
    (Act.of (rxTaken p x rest)).seq
      (match f, findColl s p h.seq with
      | .bad code, _ => tallyFault p code
      | .use, some c => usePacket p x h c
      | _, _ => Act.skip) s

/-- ABORT_PACKET (R411): for the present step as FORCE does; for an earlier step discarded. -/
def abortPacketAct (p : Nat) : Act := fun s =>
  let now := s.get F.hostTrainStepStep p % 2 ^ 48
  let step := fun (x : RxPkt) => natOf ((x.bytes.drop 32).take 8)
  let fate := fun (x : RxPkt) =>
    let h := parseTHdr x.bytes
    if h.kind ≠ 6 then Fate.waits
    else if step x < now then .drop
    else match genFate s p h.gen with
      | .use => if step x = now then .use else .waits
      | f => f
  if folded s p then []
  else match takeRx fate (s.part p).tally.rx with
  | none => []
  | some (x, f, rest) =>
    (Act.of (rxTaken p x rest)).seq
      (match f with
      | .bad code => tallyFault p code
      | .use => abortStep p
      | _ => Act.skip) s

/-- VERDICT_WAIT_LIMIT (R408): the root forms MISSING with the contributions that it holds: those already joined, and those of the stages
still to come. -/
def verdictWaitLimitAct (p : Nat) : Act := fun s =>
  match closeOf s p with
  | none => []
  | some c =>
    let a := acting s p
    let root := (stagesOf s p a.1 true 4 0).all fun g => g.pos + 1 == g.n
    if !root || a.2 || c.closeGone then []
    else
      let mine := match c.closeLine with
        | some l => l
        | none => { closeOwn (s.part p) c with late := some s.rank }
      let held := (c.closeInc.filter fun e => decide (c.closeStage ≤ e.1)).map (·.2)
      formVerdict p c (held.foldl (fun m i => i.join m) mine) true s

/-- VERDICT_TIMEOUT (R409). -/
def verdictTimeoutAct (p : Nat) : Act := fun s => if (closeOf s p).isSome then tallyFault p 0x5007 s else []

/-! ### Readings of RED_STATUS (R403, R418) -/

/-- A collective waits for a packet from another rank (R403): one that has not arrived. -/
def collWaits (s : State) (p : Nat) (c : Coll) : Bool :=
  let here := fun (t : THdr → Bool) => (s.part p).tally.rx.any fun x => let h := parseTHdr x.bytes; h.seq == c.seq && t h
  if c.c.kind = .stepClose then
    if c.closeGone then !here fun h => h.kind == 5
    else if c.closeStage = 0 && (s.part p).tally.list.any fun d => d.c.kind != .stepClose && laterIndex c.seq d.seq then false
    else match (stagesOf s p (acting s p).1 true 4 0)[c.closeStage]? with
      | some g => g.pos != 0 && !(c.closeInc.any fun e => e.1 == c.closeStage) && !here fun h => h.kind == 4 && h.stage == g.axis
      | none => false
  else (List.range (blockCount c.c)).any fun b =>
    !blkDone s p c b && ((tget c.blks b {}).own.isSome || !contributes s p c b) && !here fun h => h.block == b

/-- The context of a core is stalled under STALL_GATE or STALL_PEER, or has no task (R178, R403). -/
def ctxParked (s : State) (c : Nat) (e : Nat × Ctx) : Bool :=
  e.2.task.isNone || (match e.2.wait with
    | .gate _ _ | .barrier _ => true
    | .drover => false
    | .none => firstCause (stallCauses s c e.1) == some .coreStallPeer)

/-- The partition is parked (R403). -/
def parked (s : State) (p : Nat) : Bool :=
  (s.coresOf p).all (fun c => (s.core c).ctxs.all (ctxParked s c)) && (s.part p).tally.list.any (collWaits s p)

/-- RED_STATUS as a read gives it. -/
def redStatusValue (s : State) (p : Nat) : Nat :=
  let v := (s.reg ⟨.redStatus, p, 0⟩).toNat
  v / 2048 * 2048 + Nat.min 256 (s.part p).tally.list.length + 512 * b2n (parked s p) + 1024 * b2n (forced32 s p)

/-! ### REDUCE-class instructions (R237, R253-R255, R384) -/

/-- A collective descriptor (R254) with the fields of its instruction; none where a reserved bit is set, an address lies in host
space, COUNT is 0 or a format code is reserved. -/
def parseColl (kind : RedKind) (mode group gate : Nat) (bs : List Byte) : Option Collective :=
  let v := natOf bs
  let u := fun (o w : Nat) => bits v (8 * o) w
  let ctrl := u 0x18 32
  let adr := [u 0x00 64, u 0x08 64, u 0x20 64, u 0x28 64]
  match Fmt.ofCode (bits ctrl 0 4), Fmt.ofCode (bits ctrl 4 4) with
  | some sf, some df =>
    if adr.all (fun a => decide (a < 2 ^ 55)) ∧ 0 < u 0x10 64 ∧ u 0x10 64 < 2 ^ 40 ∧ ctrl < 2 ^ 22 ∧ u 0x1C 32 = 0 ∧ u 0x30 128 = 0 then
      some { kind := kind, mode := mode, group := group, gate := gate, src := u 0x00 64, dst := u 0x08 64, count := u 0x10 64, srcFmt := sf,
             dstFmt := df, tensorId := bits ctrl 8 12, grad := bit ctrl 20, noise := bit ctrl 21, scaleBase := u 0x20 64, pocketBase := u 0x28 64 }
    else none
  | _, _ => none

/-- The combinations that R384 admits. -/
def collFormOk (c : Collective) : Bool :=
  let fl := fun (f : Fmt) => f == .fp32 || f == .bf16 || f == .fp16
  (match c.kind with
   | .allreduce | .reduceScatter =>
     fl c.srcFmt && fl c.dstFmt && ((c.mode == 0) == (c.scaleBase == 0)) && ((c.mode == 2) == (c.pocketBase != 0))
   | .allgather => c.mode == 0 && c.srcFmt == c.dstFmt && decide (c.srcFmt.code ≤ 0xC) && c.scaleBase == 0 && c.pocketBase == 0 && !c.grad
   | .scalePrepass => c.mode != 0 && fl c.srcFmt && c.dstFmt == .e8m0 && c.dst == 0 && c.scaleBase != 0 && ((c.mode == 2) == (c.pocketBase != 0)) && !c.grad
   | .stepClose => true) &&
  (!c.noise || (c.grad && (c.kind == .allreduce || c.kind == .reduceScatter)))

/-- The checks of R254, R313, R384 and R401 on a descriptor. -/
def collCheck (s : State) (p : Nat) (t : Task) (c : Collective) : Except Stop Unit :=
  let at_ := (acting s p).1
  let len := fun (n w : Nat) => ceilDiv (n * w) 8
  let shard := shardLen s p at_ c
  let srcN := if c.kind = .allgather then shard else c.count
  let dstN := if c.kind = .reduceScatter then shard else if c.kind = .scalePrepass then 0 else c.count
  let scaleN := if c.mode = 0 then 0 else ceilDiv c.count (scaleLen c.mode)
  let pocketN := if c.mode = 2 then 4 * c.count else 0
  let noShepherd := (c.kind == .reduceScatter || c.kind == .allgather) && c.group != 2 && (shepherdsOf s p at_ c.group).isEmpty
  if !collFormOk c || decide (tensorsOf s ≤ c.tensorId) || noShepherd ||
      (c.kind == .allgather && c.group == 2 && c.count % s.penSize != 0) || (c.mode == 2 && !inBaste s p c.pocketBase pocketN) then .error (.fault 0x3006 none)
  else if ([((c.src : Int), len srcN c.srcFmt.bits, false), (c.dst, len dstN c.dstFmt.bits, true), (c.scaleBase, scaleN, true),
      (c.pocketBase, pocketN, true)].all (covered t.regions true)) then .ok ()
  else .error (.fault 0x3011 none)

/-- A REDUCE-class instruction: every lane checks the word, lane 0 records the collective (R237, R255). -/
def reduceAct (k : RedKind) (c : Nat) : Act := issue k.opcode c fun i t w =>
  match i with
  | .reduce kind mode group gate dsc =>
    Run.read (fun s =>
      if !gateOk s w.p gate || (group == 2 && s.penSize == 1) then .error invalid
      else if t.desc.lane w.core ≠ 0 then .ok none
      else if shadowMapBad s w.p then .error (.fault 0x3006 none)
      else if kind = .stepClose then .ok (some { kind := kind, mode := mode, group := group, gate := gate })
      else do
        let bs ← (readRange s w.p w.ps w.core true dsc 64).toExcept
        match parseColl kind mode group gate bs with
        | none => throw (.fault 0x3006 none)
        | some d =>
          let _ ← collCheck s w.p t d
          pure (some d)) fun d =>
      match d with
      | none => Run.ok
      | some d => Run.act (Act.of [.tasks fun l => l.map fun u => if u.id = t.id then { u with collectives := u.collectives ++ [d] } else u])
  | _ => Run.fail invalid

/-- ALLREDUCE (R253-R255). -/
def execAllreduce (c : CoreIx) (s : State) : Host.Outcome State Fault Refusal := perform (reduceAct .allreduce c) s
/-- REDUCE_SCATTER (R253-R255). -/
def execReduceScatter (c : CoreIx) (s : State) : Host.Outcome State Fault Refusal := perform (reduceAct .reduceScatter c) s
/-- ALLGATHER (R253-R255). -/
def execAllgather (c : CoreIx) (s : State) : Host.Outcome State Fault Refusal := perform (reduceAct .allgather c) s
/-- SCALE_PREPASS (R253-R255). -/
def execScalePrepass (c : CoreIx) (s : State) : Host.Outcome State Fault Refusal := perform (reduceAct .scalePrepass c) s
/-- STEP_CLOSE (R253-R255, R294). -/
def execStepClose (c : CoreIx) (s : State) : Host.Outcome State Fault Refusal := perform (reduceAct .stepClose c) s
/-- Tally reads its operand of one ring block (R382, R386-R394). -/
def execTallyOperandRead (p : PartIx) (seq : Word) (block : Nat) (s : State) : Host.Outcome State Fault Refusal := perform (operandReadAct p seq.toNat block) s
/-- A packet of a collective is taken up (R399). -/
def execTallyPacket (p : PartIx) (s : State) : Host.Outcome State Fault Refusal := perform (tallyPacketAct p) s
/-- A collective ends DONE or FLAGGED (R379). -/
def execCollectiveDone (p : PartIx) (seq : Word) (s : State) : Host.Outcome State Fault Refusal := perform (collectiveDoneAct p seq.toNat) s
/-- A collective ends MISSING (R404). -/
def execCollectiveMissing (p : PartIx) (seq : Word) (s : State) : Host.Outcome State Fault Refusal := perform (collectiveMissingAct p seq.toNat) s
/-- The root has waited RED_WAIT_LIMIT (R408). -/
def execVerdictWaitLimit (p : PartIx) (s : State) : Host.Outcome State Fault Refusal := perform (verdictWaitLimitAct p) s
/-- No verdict came in time (R409). -/
def execVerdictTimeout (p : PartIx) (s : State) : Host.Outcome State Fault Refusal := perform (verdictTimeoutAct p) s
/-- An ABORT packet is taken up (R411). -/
def execAbortPacket (p : PartIx) (s : State) : Host.Outcome State Fault Refusal := perform (abortPacketAct p) s

end Sys2Proof.Machine
end

