-- ==== Sys2Proof/Machine/Training.lean ====
section
/-! DEFINITION. The step boundary (R295-R313, R325): the basted map, counters, gradient scale, ratchet and storm (R134-R138),
statistics banks (R141, R142, R148), step records (R300), parameter tags (R326) and noise averages (R413). -/

namespace Sys2Proof.Machine

/-! ### The basted map (R306-R312) -/

/-- What is left of a range after another one is taken out. -/
def cutOut (r : Nat × Nat) (x : Nat × Nat) : List (Nat × Nat) :=
  if x.2 ≤ r.1 ∨ r.2 ≤ x.1 then [r]
  else (if r.1 < x.1 then [(r.1, x.1)] else []) ++ (if x.2 < r.2 then [(x.2, r.2)] else [])

/-- The parts of a range that none of the given ranges covers. -/
def uncovered (r : Nat × Nat) (xs : List (Nat × Nat)) : List (Nat × Nat) :=
  xs.foldl (fun rs x => rs.flatMap fun y => cutOut y x) [r]

/-- A range of device virtual addresses becomes undefined where it is mapped, page by page (R311). -/
def undefVirtual (p : Nat) (r : Nat × Nat) : Act := fun s =>
  let pages := (List.range ((r.2 - 1) / 65536 + 1)).filter fun k => decide (r.1 / 65536 ≤ k)
  pages.filterMap fun k =>
    let lo := Nat.max r.1 (65536 * k)
    let hi := Nat.min r.2 (65536 * (k + 1))
    match devicePage s p lo with
    | .inl x => some (.fill (x.loc + (lo - x.va)) (x.loc + (hi - x.va)) true)
    | .inr _ => none

/-- COMMIT makes the basted copy of every dirty granule the committed one; bytes of it that the step did not write become
undefined (R310, R311). Marks of writes since the hand-off stay (R312). -/
def basteBoundary (p : Nat) (commit : Bool) : Act := fun s =>
  let x := s.part p
  let dirty := x.baste.filter fun e => e.2.dirty
  let undef : Act := match basteRange s p with
    | none => Act.skip
    | some (b, n) =>
      if s.flag F.memXlatCtrlEn p then
        Act.each dirty fun e =>
          let lo := b + e.1 * 2 ^ 21
          let copy := if e.2.parity then lo else lo + n
          Act.each (uncovered (lo, lo + 2 ^ 21) x.specs) fun r => undefVirtual p (r.1 - lo + copy, r.2 - lo + copy)
      else Act.skip
  Act.all [
    if commit then undef else Act.skip,
    Act.of [.part p fun y => { y with
      baste := y.baste.map fun e => (e.1, { parity := e.2.parity ^^ (commit && e.2.dirty), dirty := e.2.late, late := false })
      specs := y.lateSpecs, lateSpecs := [], closing := false }]] s

/-- FUNCTION_ABORT and a partition fault clear every dirty mark (R310). -/
def basteClear (p : Nat) : Upd := .part p fun y => { y with
  baste := y.baste.map fun e => (e.1, { parity := e.2.parity, dirty := false, late := false }), specs := [], lateSpecs := [], closing := false }

/-- The staged range is consistent (R307). -/
def basteOk (s : State) (p : Nat) : Bool :=
  let z := s.stagedGet F.hostTrainBasteSizeSizeLog2 p
  let b := s.stagedGet F.hostTrainBasteBaseBase p * 2 ^ 21
  (z == 0 || decide (21 ≤ z ∧ z ≤ 38 - s.layout)) && b % 2 ^ (z + 1) == 0 && decide (b + 2 ^ (z + 1) ≤ 2 ^ 55)

def commitBasteEffect (p : Nat) : Act := fun s =>
  [.fld F.hostTrainBasteSizeSizeLog2 p 0 (s.stagedGet F.hostTrainBasteSizeSizeLog2 p),
   .fld F.hostTrainBasteBaseBase p 0 (s.stagedGet F.hostTrainBasteBaseBase p),
   .part p fun y => { y with baste := [], specs := [], lateSpecs := [] }]

/-! ### Gradient scale (R304), ratchet and storm (R134-R138) -/

def scaleBoundary (p code : Nat) : Act := fun s =>
  let g := s.get F.hostTrainCfgGradScaleLog2 p
  let clean := s.get F.hostTrainStatusCleanCount p
  let grow := s.get F.hostTrainCfgGradScaleGrowthSteps p
  if code = 0 then
    if grow ≠ 0 ∧ grow ≤ clean + 1 then [.fld F.hostTrainStatusCleanCount p 0 0, .fld F.hostTrainCfgGradScaleLog2 p 0 (Nat.min 31 (g + 1))]
    else [.fld F.hostTrainStatusCleanCount p 0 (clean + 1)]
  else if code = 1 then [.fld F.hostTrainStatusCleanCount p 0 0, .fld F.hostTrainCfgGradScaleLog2 p 0 (g - 1)]
  else []

/-- One ratchet entry at a boundary (R135, R138). -/
def Ratchet.next (r : Ratchet) (reached : Option Nat) (steps : Nat) (pinned : Bool) : Ratchet :=
  match reached, decide (steps = 0) with
  | some n, false => { rung := Nat.max n r.rung, count := steps }
  | _, _ =>
    if pinned || r.count == 0 then r
    else if r.count = 1 then {} else { r with count := r.count - 1 }

/-- The let-out fraction of a step (R137). -/
def letoutFraction (letouts passes : Nat) : Nat := if passes = 0 then 0 else letouts * 1024 / passes

/-- The fraction exceeds the storm limit (R137); compared exactly. -/
def stormRaised (s : State) (p : Nat) : Bool :=
  let x := s.part p
  decide (x.stepPasses ≠ 0 ∧ s.get F.telLoPolicyLetoutStormLimit p * x.stepPasses < x.stepLetouts * 1024)

def ratchetBoundary (p : Nat) : Act := fun s =>
  let x := s.part p
  let steps := s.get F.telLoPolicyLetoutRatchetSteps p
  let pinned := s.flag F.telLoStatusPinned p && !s.flag F.telLoStatusUnpinPending p
  let storm := stormRaised s p
  let ids := ((x.ratchet.map (·.1)) ++ x.stepOuts).eraseDups
  let reached := fun (i : Nat) => if x.stepOuts.contains i then some (tget x.stepReached i 0) else none
  let pin := pinned || (storm && s.flag F.telLoPolicyLetoutStormPin p)
  [.part p fun y => { y with
     ratchet := (ids.map fun i => (i, (tget x.ratchet i {}).next (reached i) steps pinned)).filter fun e => e.2 != {}
     stepReached := [], stepOuts := [], stepPasses := 0, stepLetouts := 0 },
   .fld F.telLoStatusPinned p 0 (b2n pin), .fld F.telLoStatusUnpinPending p 0 0,
   .fld F.telLoStatusLastFraction p 0 (letoutFraction x.stepLetouts x.stepPasses),
   .reg ⟨.telLoPasses, p, 0⟩ (BitVec.ofNat 64 x.stepPasses), .reg ⟨.telLoLetouts, p, 0⟩ (BitVec.ofNat 64 x.stepLetouts)] ++
  (if storm then [.fld F.telLoStatusStorm p 0 1] else [])

/-! ### Tensor statistics (R141, R142, R148) -/

def share (n of_ : Nat) : Nat := if of_ = 0 then 0 else Nat.min 0xFFFF (n * 65536 / of_)

/-- The 64 bytes of a visible record. -/
def tstatBytes (t : TensorCounts) (step : Nat) (r : Ratchet) : List Byte :=
  List.flatten [bytesOf 8 t.elements, bytesOf 8 t.zeros, bytesOf 8 t.zeroed, bytesOf 8 t.saturated, bytesOf 8 t.nonfinite,
    bytesOf 4 (f32Bits t.maxMag), bytesOf 2 (share t.zeros t.elements), bytesOf 2 (share t.saturated t.elements),
    bytesOf 2 (share t.zeroed t.elements), bytesOf 2 (share t.nonfinite t.elements), bytesOf 4 step, bytesOf 4 (Nat.min t.letouts 0xFFFFFFFF),
    bytesOf 4 (r.rung % 4 + 256 * (r.count % 256))]

/-- Every record of the partition is copied to its visible bank, and the accumulating bank cleared. -/
def statsBoundary (p : Nat) : Act := fun s =>
  let x := s.part p
  let n := tensorsOf s
  let step := s.get F.hostTrainStepStep p
  let new := (List.range n).map fun i => (p * n + i, tstatBytes (tget x.stats i {}) step (tget x.ratchet i {}))
  [.tstat fun t => new ++ t.filter fun e => decide (e.1 / n ≠ p), .part p fun y => { y with stats := [] }]

/-! ### The step record (R300) -/

def stepRecord (s : State) (p verdict : Nat) : List Byte :=
  let g := s.get F.hostTrainCfgGradScaleLog2 p
  List.flatten [bytesOf 8 (s.get F.hostTrainStepStep p), bytesOf 8 (s.get F.hostTrainAppliedApplied p), bytesOf 4 ((127 + g) * 2 ^ 23),
    bytesOf 4 ((127 - g) * 2 ^ 23), bytesOf 4 verdict, bytesOf 4 (s.get F.hostTrainStatusCleanCount p), bytesOf 8 s.time, bytesOf 24 0]

/-- Steps 6 and 7 of R297, after the record. -/
def boundaryAfter (p : Nat) (b : Boundary) : Act := fun s =>
  Act.all [
    Act.of [.part p fun y => { y with boundary := y.boundary.drop 1 }],
    match b.gate with
    | some g => gateAdd g 1
    | none => Act.skip,
    match b.verdict with
    | some v => Act.set F.hostTrainStatusLastVerdict p 0 v
    | none => Act.skip,
    if b.msg then sendMsix (s.owner p) (s.get F.hostTrainIrqVector p) else Act.skip] s

/-- A boundary of the partition has its verdict and is not complete (R298). -/
def verdictWaits (s : State) (p : Nat) : Bool := (s.part p).boundary.any fun b => b.verdict.isSome

/-- An abort takes effect on a partition (R470 steps 2 to 4, R515). -/
def abortBegin (p : Nat) : Act := fun s =>
  .part p (fun y => { y with draining := true, abortWaits := false, tally := { y.tally with list := [] } }) ::
    (s.coresOf p).map fun c => .core c fun k => { k with halted := false, haltPending := false, step := false }

/-- Writes the records that wait, while their pages are translated. A record that cannot be written is lost, with code 0x1102;
the boundary proceeds (R300). An abort that came at or after the verdict takes effect once it is complete (R298). -/
def flushBoundaries (p : Nat) : Act := fun s =>
  (go p (s.part p).boundary).seq (Act.look fun s => if (s.part p).abortWaits && !verdictWaits s p then abortBegin p else Act.skip) s
where
  go (p : Nat) : List Boundary → Act
    | [] => Act.skip
    | b :: rest => fun s =>
      if b.addr = 0 then Act.all [boundaryAfter p b, go p rest] s
      else match writeRange s p 0 true b.addr false b.bytes with
        | .inl runs => Act.all [moduleStore runs, boundaryAfter p b, go p rest] s
        | .inr (.inl _) => Act.all [logFault { code := 0x1102, scope := 0, part := some p, unit := 4 }, boundaryAfter p b, go p rest] s
        | .inr (.inr pg) => requestAts p 0 pg .boundary false s

/-- The oldest waiting record has no usable translation: it is lost. -/
def boundaryLost (p : Nat) : Act := fun s =>
  match (s.part p).boundary with
  | [] => []
  | b :: _ => Act.all [logFault { code := 0x1102, scope := 0, part := some p, unit := 4 }, boundaryAfter p b, flushBoundaries p] s

def addBoundary (p : Nat) (b : Boundary) : Act := (Act.of [.part p fun y => { y with boundary := y.boundary ++ [b] }]).seq (flushBoundaries p)

/-- PUBLISH (R300): the record now, with no boundary. -/
def publishEffect (p : Nat) : Act := fun s =>
  let a := s.get F.hostTrainRecAddr p * 64
  if a = 0 then []
  else addBoundary p { addr := a, bytes := stepRecord s p (s.get F.hostTrainStatusLastVerdict p), gate := none, verdict := none, msg := false } s

/-! ### Parameter tags (R326) -/

/-- The delivery count of a tensor identifier adds 1. -/
def touchTag (p i : Nat) : Act := fun s =>
  let r := tensorRec s p i
  [.fld F.telPtagDelivery r 0 (s.get F.telPtagDelivery r + 1)]

/-- TOUCH_ALL: every identifier of the parameter range. -/
def touchAllEffect (p : Nat) : Act := fun s =>
  if !s.flag F.hostTrainParamEn p then []
  else Act.each ((List.range (tensorsOf s)).filter fun i => decide (s.get F.hostTrainParamFirst p ≤ i ∧ i ≤ s.get F.hostTrainParamLast p)) (touchTag p) s

/-! ### Noise averages (R413) -/

/-- E + α × (x − E), rounded once. -/
def emaNext (reset : Bool) (alpha e x : Nat) : Nat :=
  if reset then x
  else f32Bits (Num.add (f32 e) (Num.mul (.dyadic false alpha (-8)) (Num.sub (f32 x) (f32 e))))

def noiseBoundary (p : Nat) (v : Verdict) : Act := fun s =>
  let t := (s.part p).tally
  let a := s.get F.redNoiseCfgAlpha p
  [.fld F.redNoiseLocalF p 0 v.l, .fld F.redNoiseGlobalF p 0 v.g, .fld F.redStatusNoiseValid p 0 (b2n !v.noiseInvalid)] ++
  (if v.noiseInvalid then []
   else [.fld F.redNoiseLocalEmaF p 0 (emaNext t.emaReset a (s.get F.redNoiseLocalEmaF p) v.l),
     .fld F.redNoiseGlobalEmaF p 0 (emaNext t.emaReset a (s.get F.redNoiseGlobalEmaF p) v.g)]) ++
  [updTally p fun y => { y with noise := [], noiseBad := false, emaReset := y.emaReset && v.noiseInvalid }]

/-! ### The verdict (R297, R325) -/

/-- Steps 4 to 7 of R297. -/
def boundary (p : Nat) (c : Coll) (v : Verdict) : Act := fun s =>
  let storm := stormRaised s p
  let msg := s.flag F.hostTrainIrqOnBoundary p || (s.flag F.hostTrainIrqOnNoncommit p && v.code != 0) || (s.flag F.hostTrainIrqOnStorm p && storm)
  let headroom := s.get F.redCfgRedHeadroomBits p
  Act.all [
    basteBoundary p (v.code == 0),
    if v.code = 0 then Act.count .hostTrainApplied p 0 1 else Act.skip,
    scaleBoundary p v.code,
    ratchetBoundary p,
    statsBoundary p,
    Act.count .hostTrainStep p 0 1,
    if v.escalated then (Act.set F.redStatusEscalated p 0 1).seq
      (if s.flag F.redCfgRedHeadroomAuto p then Act.set F.redCfgRedHeadroomBits p 0 (Nat.min 15 (Nat.max 1 headroom + 1)) else Act.skip) else Act.skip,
    noiseBoundary p v,
    layoutBoundary p,
    Act.of [.fld F.hostTrainStatusFresh p 0 0, .add ⟨.redCollectives, p, 0⟩ 1,
      .add ⟨.redPeerWaitNs, p, 0⟩ ((c.waited.map fun w => w.1 - c.handoff).getD 0),
      .part p fun y => { y with
        tags := [], flagMissing := false, flagAborted := false, flagEscalated := false, flagGrad := false
        tally := { y.tally with list := y.tally.list.filter fun d => decide (d.seq ≠ c.seq) } }],
    Act.look fun s => addBoundary p { addr := s.get F.hostTrainRecAddr p * 64, bytes := stepRecord s p v.code, gate := some c.c.gate, verdict := some v.code, msg := msg }] s

/-- VERDICT (R297, R409): the first VERDICT packet that need not wait. Packets for a folded partition wait (R443). -/
def verdictAct (p : Nat) : Act := fun s =>
  let fate := fun (x : RxPkt) =>
    let h := parseTHdr x.bytes
    if h.kind ≠ 5 then Fate.waits
    else match findColl s p h.seq with
      | none => if laterIndex (s.get F.redSeqNext p) h.seq then .drop else (match genFate s p h.gen with
        | .use => .waits
        | f => f)
      | some c => match genFate s p h.gen with
        | .use => if c.c.kind = .stepClose then .use else .bad 0x5002
        | f => f
  if folded s p then []
  else match takeRx fate (s.part p).tally.rx with
  | none => []
  | some (x, f, rest) =>
    let h := parseTHdr x.bytes
    let payload := (x.bytes.drop 32).take 16
    let v := parseVerdict payload
    (Act.of (rxTaken p x rest)).seq
      (match f, findColl s p h.seq with
      | .bad code, _ => tallyFault p code
      | .use, some c =>
        if crc32 payload ≠ h.pcrc ∨ v.step ≠ s.get F.hostTrainStepStep p % 2 ^ 48 then tallyFault p 0x5006
        else (noteWait p c h x.time).seq (Act.look fun s => boundary p ((findColl s p c.seq).getD c) v)
      | _, _ => Act.skip) s

/-- The job's verdict reaches the rank (R297, R325, R409). -/
def execVerdict (p : PartIx) (s : State) : Host.Outcome State Fault Refusal := perform (verdictAct p) s

end Sys2Proof.Machine
end

