-- ==== Sys2Proof/Machine/Xlat.lean ====
section
/-! DEFINITION. Answers of the translation service and of page requests, and invalidations (R183, R184, R186, R192). -/

namespace Sys2Proof.Machine

def rangesMeet (a n b m : Nat) : Bool := decide (a < b + m ∧ b < a + n)

/-- What follows for one access when its page has no usable translation. -/
def atsRefused (p : Nat) (r : AtsReq) : Act :=
  match r.who with
  | .boundary => boundaryLost p
  | _ => atsUnusable p r

/-- ATS_COMPLETION (R184): the translation of one page. Accesses that it allows go on; the others have no usable translation. -/
def atsCompletionAct (p page : Nat) (a : AtsAnswer) : Act := fun s =>
  let pg := page / 4096 * 4096
  match (s.part p).atsReqs.find? fun r => r.page == pg with
  | none => []
  | some r0 =>
    let rs := (s.part p).atsReqs.filter fun r => r.page == pg && r.ps == r0.ps
    let drop : Act := Act.of [.part p fun y => { y with atsReqs := y.atsReqs.filter fun r => !(r.page == pg && r.ps == r0.ps) }]
    match a with
    | .unusable => Act.all [drop, Act.each rs (atsRefused p)] s
    | .page host z rd wr =>
      let size := 2 ^ Nat.max 12 (Nat.min 30 z)
      let x : Xlat := { va := pg / size * size, size := size, loc := host / size * size, r := rd, w := wr }
      let ok := fun (r : AtsReq) => if r.write then wr else rd
      Act.all [
        drop,
        if rd || wr then Act.of [.part p fun y => { y with
          ats := ((r0.ps, x) :: y.ats.filter fun e => !(e.1 == r0.ps && rangesMeet e.2.va e.2.size x.va x.size)).take 2048 }] else Act.skip,
        Act.each (rs.filter fun r => !ok r) (atsRefused p),
        Act.each (rs.filter ok) fun r => match r.who with
          | .record q => flushRecords p q
          | .boundary => flushBoundaries p
          | _ => Act.skip] s

/-- PRG_RESPONSE (R184, R186, R210): the record of a page fault. A response that matches no outstanding request is ignored. -/
def prgResponseAct (f : Fn) (pasid prgi : Nat) (success : Bool) : Act := fun s =>
  match (s.fn f).prq.find? fun r => r.pasid == pasid && r.prgi == prgi with
  | none => []
  | some r =>
    Act.all [
      Act.of [.fn f fun y => { y with prq := y.prq.filter fun x => !(x.pasid == pasid && x.prgi == prgi) }],
      if r.faulted then
        pushRecord r.p r.q { index := r.index, status := if success then 3 else 4, code := if success then 0x2004 else 0x2005, endTime := s.time, startTime := r.startTime, restarts := r.restarts, letouts := r.letouts, msg := true, vector := s.get F.hostQCtrlVector r.p r.q }
      else Act.skip] s

/-- ATS_INVALIDATE (R184): matching translations are dropped; the answer follows the requests that used them. -/
def atsInvalidateAct (f : Fn) (page sizeLog2 : Nat) : Act := fun s =>
  Act.all [
    Act.of ((s.partsOf f).map fun p => .part p fun y => { y with ats := y.ats.filter fun e => !rangesMeet e.2.va e.2.size page (2 ^ sizeLog2) }),
    Act.of [.fn f fun y => { y with invs := y.invs ++ [(page, sizeLog2)] }],
    flushInvs f] s

/-- START of an invalidation (R183, R192). -/
def invStartEffect (p : Nat) : Act := fun s =>
  let z := Nat.max 16 (Nat.min 55 (s.get F.memXlatInvSizeLog2 p))
  let r := if s.flag F.memXlatInvAll p then (0, 2 ^ 56) else (s.get F.memXlatInvAddrAddr p * 2 ^ 16, 2 ^ z)
  [.fld F.memXlatInvDone p 0 0, .part p fun y => { y with invRange := some r }]

/-- XLAT_INVALIDATE_DONE: once every request that used a translation of the range has completed, be it a read, a store already issued or one
whose address has been translated, they are dropped and DONE is 1. -/
def invDoneAct (p : Nat) : Act := fun s =>
  match (s.part p).invRange with
  | none => []
  | some (a, n) =>
    let hit := fun (x : Xlat) => rangesMeet x.va x.size a n
    let old := (s.part p).tlb.filter hit
    let uses := fun (core l len : Nat) (va : Option Nat) => s.partOfCore core == p &&
      (old.any (fun x => rangesMeet x.loc x.size l len) || va.any fun v => rangesMeet v len a n)
    if s.reqs.any (fun r => uses r.core r.loc r.len r.va) || s.stores.any (fun x => uses x.core x.loc x.bytes.length x.va) then []
    else [.part p fun y => { y with tlb := y.tlb.filter fun x => !hit x, invRange := none }, .fld F.memXlatInvDone p 0 1]

/-- A translation answer arrives (R184). -/
def execAtsCompletion (p : PartIx) (page : Nat) (a : AtsAnswer) (s : State) : Host.Outcome State Fault Refusal := perform (atsCompletionAct p page a) s
/-- A page request is answered (R186). -/
def execPrgResponse (f : Fn) (pasid prgi : Nat) (success : Bool) (s : State) : Host.Outcome State Fault Refusal := perform (prgResponseAct f pasid prgi success) s
/-- An invalidation of host translations (R184). -/
def execAtsInvalidate (f : Fn) (page sizeLog2 : Nat) (s : State) : Host.Outcome State Fault Refusal := perform (atsInvalidateAct f page sizeLog2) s
/-- An invalidation of device translations completes (R183). -/
def execXlatInvalidateDone (p : PartIx) (s : State) : Host.Outcome State Fault Refusal := perform (invDoneAct p) s

end Sys2Proof.Machine
end

