-- ==== Sys2Proof/Machine/TaskEnd.lean ====
section
/-! DEFINITION. The completion of a task (R201, R205, R208, R210, R255, R303). -/

namespace Sys2Proof.Machine

/-- Every core of the mask has retired and every store is acknowledged (R201, steps 1 and 2). -/
def taskRetired (s : State) (t : Task) : Bool :=
  (t.desc.mask.all fun c => t.retired.any fun r => r.1 == c) && !(s.stores.any fun x => x.task == t.id)

/-- What a completed task gives to its partition's step: statistics, rungs and let-out passes (R135, R137, R140). -/
def Part.addTask (x : Part) (t : Task) : Part :=
  { x with
    stats := t.stats.foldl (fun m e => tset m e.1 ((tget m e.1 {}).merge e.2)) x.stats
    stepOuts := t.outs.foldl natInsert x.stepOuts
    stepReached := t.reached.foldl (fun m e => tset m e.1 (Nat.max (tget m e.1 0) e.2)) x.stepReached
    stepPasses := x.stepPasses + t.controlled
    stepLetouts := x.stepLetouts + t.letoutPasses }

/-- A core once a task is complete: it will not be discarded any more, so nothing of its start is kept (R175). -/
def Core.settled (id : Nat) (k : Core) : Core :=
  { k with
    streams := k.streams.map fun e => (e.1, { e.2 with starts := e.2.starts.filter fun x => decide (x.1 ≠ id) })
    unbound := k.unbound.filter fun u => decide (u.1 ≠ id) }

/-- TASK_COMPLETE. -/
def taskCompleteAct (id : Nat) : Act := fun s =>
  match s.task id with
  | none => []
  | some t =>
    if !taskRetired s t || (s.part t.p).draining then []
    else Act.all [
      Act.each (t.desc.signal.toList ++ t.signals) fun g => gateAdd g.1 g.2,
      Act.of (t.desc.mask.map fun c => .core c (Core.settled id)),
      Act.of [.part t.p fun x => x.addTask t, .tasks fun l => l.filter fun u => decide (u.id ≠ id)],
      if t.nonfinite then Act.set F.hostTrainStatusNonfinite t.p 0 1 else Act.skip,
      Act.each t.collectives (handOff t.p),
      Act.of [.queue t.p t.q fun x => { x with done := t.index :: x.done }],
      advanceHead t.p t.q,
      updRunning t.p t.q,
      traceRec 1 t.p t.q t.index,
      if t.desc.cpl then pushRecord t.p t.q { index := t.index, status := 0, code := 0, endTime := s.time, startTime := t.dispatchTime, restarts := t.restarts, letouts := t.letoutPasses, msg := t.desc.irq, vector := t.live.vector } else Act.skip] s

/-- A task completes (R201). -/
def execTaskComplete (task : Nat) (s : State) : Host.Outcome State Fault Refusal := perform (taskCompleteAct task) s

end Sys2Proof.Machine
end

