-- ==== Sys2Proof/Machine/Fold.lean ====
section
/-! DEFINITION. The effective limit (R428, R431, R433), power interrupts and the fold of the module and of single partitions
(R442-R444, R447). -/

namespace Sys2Proof.Machine

/-! ### Signals -/

/-- A field of PWR_PART_p as the last control tick took it (R5, R452). -/
def partCtl (s : State) (f : Fld) (p : Nat) : Nat := tget s.power.partCtl p RegName.pwrPart.reset.toNat / 2 ^ f.lo % 2 ^ f.w

/-- PWR_IRQ (R455), as the last control tick took it. -/
def pwrIrq : Act := fun s =>
  if s.power.irq / 2 ^ F.pwrIrqEn.lo % 2 = 1 then sendMsix s.mgmt (s.power.irq % 2 ^ F.pwrIrqVector.w) s else []

/-- A W1C bit of PWR_STATUS is set. -/
def pwrEvent (f : Fld) : Act := (Act.set f 0 0 1).seq pwrIrq

/-- Bits [15:8] of the I3C state word (R434). -/
def i3cFlags (s : State) : Nat := s.get F.pwrStatusCapBelowFold + 2 * s.get F.pwrStatusShedding

/-- CAP_BELOW_FOLD or SHEDDING takes a value: a change sends PWR_IRQ and the in-band interrupt of R434. -/
def pwrLevel (f : Fld) (on : Bool) : Act := fun s =>
  if s.flag f == on then []
  else Act.all [Act.set f 0 0 (if on then 1 else 0), pwrIrq, fun s => [.emit (.i3cIbi (BitVec.ofNat 8 (i3cFlags s)))]] s

/-! ### The effective limit -/

/-- A cap or shed limit in range, and whether it was clamped (R428, R435). -/
def clampW (w : Nat) : Nat := Nat.max 300 (Nat.min 1500 w)

/-- The supply limit of R433, in watts, at the filtered input voltage. -/
def supplyLimit (s : State) : Nat :=
  let lo := s.get F.pwrSupplyCfgVLoDv
  let hi := s.get F.pwrSupplyCfgVHiDv
  let fw := Nat.min 1500 (s.get F.pwrSupplyCfgFloorW)
  let v := s.power.vFilt
  if hi * 2 ^ 16 ≤ v then 1500 else if v ≤ lo * 2 ^ 16 then fw else fw + (1500 - fw) * (v - lo * 2 ^ 16) / ((hi - lo) * 2 ^ 16)

/-- The supply limit is in force (R454). -/
def supplyOn (s : State) : Bool := s.flag F.pwrSupplyCfgEn && decide (s.get F.pwrSupplyCfgVLoDv < s.get F.pwrSupplyCfgVHiDv)

/-- The effective limit with its source: 0 none, 1 CAP, 2 SUPPLY, 3 SHED_PIN (R428, R453). Of the sources in force that set it the first
is shown; 0 stands where only the caps are in force and both are at their largest value. -/
def effLimit (s : State) : Nat × Nat :=
  let cap := Nat.min (s.get F.pwrLimitsI3cCapW) (s.get F.pwrCapHostCapW)
  let pin := s.flag F.pwrShedPin
  let sup := if supplyOn s then supplyLimit s else 1500
  let shed := if pin then s.get F.pwrShedShedW else 1500
  let e := Nat.min cap (Nat.min sup shed)
  (e, if pin && shed == e then 3 else if supplyOn s && sup == e then 2 else if 1500 ≤ e then 0 else 1)

/-- PWR_LIMITS takes the effective limit; a fall is followed at once by the ramped limit (R431), and the marks of a whole tick
below or above the fold power end where the limit leaves that range (R442, R444). -/
def updLimits : Act := fun s =>
  let (e, b) := effLimit s
  let fw := s.get F.pwrFoldFoldW
  [.fld F.pwrLimitsEffectiveW 0 0 e, .fld F.pwrLimitsBinding 0 0 b,
   .power fun x => { x with rampDw := Nat.min x.rampDw (10 * e), below := x.below && decide (e < fw), above := x.above && decide (fw + 20 ≤ e) }]

/-! ### Fold -/

/-- A core of the partition is halted, or is to halt once the partition wakes (R517). -/
def haltIn (s : State) (p : Nat) : Bool := (s.coresOf p).any fun c => (s.core c).halted || (s.core c).haltPending

/-- A cause to fold partition p holds (R442, R517). An abort or a partition fault wakes the partition until it is done
(R470, R482). -/
def foldWanted (s : State) (p : Nat) : Bool :=
  s.get F.pwrStateModule != 4 && !s.power.off && (s.part p).faultPending.isNone && !s.flag F.hostAbortStatusBusy (s.owner p).idx &&
    (!s.power.causes.isEmpty || (partCtl s F.pwrPartFoldReq p == 1 && !haltIn s p))

/-- The dies of a partition at OP_0 (R444). -/
def diesOp0 (s : State) (p : Nat) : List Upd := (s.diesOf p).map fun d => .reg ⟨.dieOpStatus, d, 0⟩ 0

/-- The ports leave low-power idle as a partition leaves FOLD (R366). -/
def portsWake : Act := fun s =>
  (List.range 6).flatMap fun g => if s.flag F.fabGpStatusLpi g then [.fld F.fabGpStatusLpi g 0 0, .emit (.lpiPattern g true)] else []

/-- A folded partition becomes ACTIVE: its dies at OP_0, and cores whose halt waited halt (R444, R517). -/
def wakePart (p : Nat) : Act := fun s =>
  .fld (pwrPartFld p) 0 0 0 :: (diesOp0 s p ++ portsWake s ++
    (s.coresOf p).map fun c => .core c fun k => { k with halted := k.halted || k.haltPending, haltPending := false })

/-- PWR_STATE.MODULE of ACTIVE and FOLD (R453). A folded module draws its fold power, from which the limit rises at the exit (R431). -/
def updModuleState : Act := fun s =>
  if s.get F.pwrStateModule = 4 then []
  else .fld F.pwrStateModule 0 0 (if allFolded s then 2 else 0) ::
    (if allFolded s then [.power fun x => { x with rampDw := Nat.min x.rampDw (10 * s.get F.pwrFoldFoldW) }] else [])

/-- Every partition folds or wakes as its causes say (R442, R444). -/
def updFold : Act := fun s =>
  let ps := List.range s.nParts
  let enter := ps.filter fun p => foldWanted s p && !folded s p
  let leave := ps.filter fun p => !foldWanted s p && folded s p
  Act.all [
    Act.each enter fun p => Act.set (pwrPartFld p) 0 0 2,
    Act.each leave wakePart,
    updModuleState,
    if enter.isEmpty then Act.skip else pwrEvent F.pwrStatusFoldEntered] s

/-- A cause of a module fold begins or ends. -/
def foldCause (c : FoldCause) (on : Bool) : Act :=
  (Act.of [.power fun x => { x with causes := if on then (if x.causes.contains c then x.causes else c :: x.causes) else x.causes.filter fun y => decide (y ≠ c) }]).seq updFold

end Sys2Proof.Machine
end

