-- ==== Sys2Proof/Machine/Commits.lean ====
section
/-! DEFINITION. Commits of staged sets, as they are judged (R7, R224, R307, R410, R465), and the effects of a change of layout or
owner (R466). -/

namespace Sys2Proof.Machine

/-- The BAR0 offset of a register (R550-R553). -/
def Reg.addr (r : Reg) : Nat :=
  let t := r.name.spec
  match t.idx with
  | [] => t.base
  | [(_, a)] => t.base + (if t.perFn then 0 else r.i * a)
  | (_, a) :: (_, b) :: _ => t.base + r.i * a + r.j * b

/-- A write to a register by function f is marked. -/
def regMark (f : Fn) (r : Reg) (m : Mark) : Act := cfgMark f m 0 r.addr true

/-- The training and reduction fields of p are busy (R332, R415). -/
def trainBusy (s : State) (p : Nat) : Bool := s.tasksBusy p || !(s.part p).tally.list.isEmpty

/-- A partition is busy (R465); the work of a partition fault in progress counts. -/
def partBusy (s : State) (p : Nat) : Bool :=
  trainBusy s p || s.flag F.hostAbortStatusBusy (s.owner p).idx || (s.part p).faultPending.isSome

/-- COMMIT of HOST_CFG_COMMIT_p (R224). -/
def cfgCommitJudge (f : Fn) (p : Nat) : Act := fun s =>
  let r : Reg := ⟨.hostCfgCommit, p, 0⟩
  if s.tasksBusy p then regMark f r { busy := true } s
  else if !cfgOk s p then regMark f r { mis := true } s
  else cfgApply p s

/-- COMMIT_BASTE (R307, R332). -/
def basteCommitJudge (f : Fn) (p : Nat) : Act := fun s =>
  let r : Reg := ⟨.hostTrainCtrl, p, 0⟩
  if trainBusy s p then regMark f r { busy := true } s
  else if !basteOk s p then regMark f r { mis := true } s
  else commitBasteEffect p s

/-- COMMIT of RED_LAYOUT_p (R410). -/
def layoutCommitJudge (f : Fn) (p : Nat) : Act := fun s =>
  if layoutOk s p then layoutCommitEffect p s else regMark f ⟨.redLayout, p, 0⟩ { mis := true } s

/-! ### The partition set -/

/-- The tier ranges of a partition become undefined (R23). -/
def tiersUndef (s : State) (p : Nat) : List Upd :=
  let n := s.partSize
  [0, 0x10000000000].map fun b => .fill (b + p * n * 0x4000000000) (b + (p + 1) * n * 0x4000000000) true

/-- Link state of each die: DL_d is off where its ends lie in different partitions (R27, R46). -/
def ringUpd (s : State) : List Upd :=
  (List.range 4).map fun d =>
    let off := s.partOfDie d != s.partOfDie ((d + 1) % 4)
    .reg ⟨.dieRingStatus, d, 0⟩ (BitVec.ofNat 64 (4 + if off then 2 else 1))

/-- Partitions that a commit of the staged set affects (R465). -/
def partsAffected (s : State) : List Nat :=
  if s.stagedGet F.hostPartCfgLayout ≠ s.layout then List.range s.nParts
  else (List.range s.nParts).filter fun p => decide (s.stagedGet F.hostPartCfgOwner / 2 ^ p % 2 ≠ s.get F.hostPartCfgOwner / 2 ^ p % 2)

/-- The staged layout and owners are consistent (R465). -/
def partsOk (s : State) : Bool :=
  let l := s.stagedGet F.hostPartCfgLayout
  decide (l ≤ 2 ∧ s.stagedGet F.hostPartCfgOwner < 2 ^ 2 ^ l)

def partsStore : Act := fun s =>
  [.fld F.hostPartCfgLayout 0 0 (s.stagedGet F.hostPartCfgLayout), .fld F.hostPartCfgOwner 0 0 (s.stagedGet F.hostPartCfgOwner)]

/-- The effects of a new layout on every partition (R25, R225, R293, R299, R307, R339, R418, R450, R466). Partitions of
several dies have one context (R213, log 19). -/
def layoutEffects : Act := fun s =>
  let ps := List.range 4
  let regs : List RegName := [.memMap, .hostTrainStep, .hostTrainApplied, .redSeq, .telEnergyPart, .telEnergyIdle]
  ((ps.map fun p => (regs.map fun r => Upd.resetReg ⟨r, p, 0⟩) ++ [.fld F.hostTrainStatusFresh p 0 1, .fld (pwrPartFld p) 0 0 0,
    .part p fun y => { y with ats := [], atsReqs := [], specs := [], lateSpecs := [], closing := false, tags := [], baste := []
                              tally := { y.tally with list := [], noise := [], noiseBad := false } }]).flatten ++
   (ps.map fun p => (List.range 64).map fun q => Upd.resetReg ⟨.telEnergyQ, p, q⟩).flatten) ++
  ((List.range 4096).flatMap fun g => [Upd.resetReg ⟨.hostGate, g, 0⟩, .resetReg ⟨.telPtag, g, 0⟩]) ++
  (if s.partSize = 1 then [] else ps.flatMap fun p => [.fld F.hostExecCtxCount p 0 0, .unstage ⟨.hostExec, p, 0⟩])

/-- A committed change of layout. -/
def layoutChange : Act := fun s =>
  let undef := ((List.range s.nParts).filter fun p => (s.reg ⟨.memMap, p, 0⟩) != 0).map (tiersUndef s)
  Act.all [
    Act.of undef.flatten,
    Act.each (List.range s.nParts) fun p => if folded s p then wakePart p else Act.skip,
    partsStore,
    layoutEffects,
    Act.each (List.range 4) queuesReset,
    ringUpd,
    updModuleState,
    updFold] s

/-- A committed change of the owner of p alone. -/
def ownerChange (p : Nat) : Act :=
  Act.all [queuesReset p, fun s => gatesZero s p, Act.of [.part p fun y => { y with ats := [], atsReqs := [] }]]

/-- COMMIT of HOST_PART_COMMIT (R465, R466). Where the staged set is inconsistent and an affected partition is busy too, R7 does not say
which is marked: here it is MISMATCH alone (DESIGN CHOICE, log 19), since no set is there whose effect could meet the busy partition. -/
def partsCommitJudge (f : Fn) : Act := fun s =>
  let r : Reg := ⟨.hostPartCommit, 0, 0⟩
  let ps := partsAffected s
  if !partsOk s then regMark f r { mis := true } s
  else if ps.any (partBusy s) then regMark f r { busy := true } s
  else if s.stagedGet F.hostPartCfgLayout ≠ s.layout then layoutChange s
  else Act.all [partsStore, Act.each ps ownerChange] s

/-- The abort of the owner of p is in progress. -/
def abortOf (s : State) (p : Nat) : Bool := s.flag F.hostAbortStatusBusy (s.owner p).idx

def defer (d : Deferred) : Act := fun _ => [.deferred fun l => l ++ [d]]

/-- The commits as they are written: judged now, or once the abort that they meet is done (R471). -/
def cfgCommitAct (f : Fn) (p : Nat) : Act := fun s => if abortOf s p then defer (.cfg f p) s else cfgCommitJudge f p s
def basteCommitAct (f : Fn) (p : Nat) : Act := fun s => if abortOf s p then defer (.baste f p) s else basteCommitJudge f p s
def layoutCommitAct (f : Fn) (p : Nat) : Act := fun s => if abortOf s p then defer (.layout f p) s else layoutCommitJudge f p s
def partsCommitAct (f : Fn) : Act := fun s => if (partsAffected s).any (abortOf s) then defer (.parts f) s else partsCommitJudge f s

end Sys2Proof.Machine
end

