-- ==== Sys2Proof/Machine/Bus.lean ====
section
/-! DEFINITION. Registers by BAR0 offset (R544, R550-R553), and what a settings image may carry (R535). -/

namespace Sys2Proof.Machine

/-- How the configuration space of a function identifies it. -/
structure PortIdentity where
  vendor : Nat
  device : Nat
  subVendor : Nat
  subsystem : Nat
  classCode : Nat
  revision : Nat
  deriving DecidableEq, Repr

/-- The identity of R458, the same on both ports. The table has no command that reads the configuration space (log 18). -/
def portIdentity (_ : Fn) : PortIdentity :=
  { vendor := 0x1F3C, device := 0x3272, subVendor := 0x1F3C, subsystem := 0x0001, classCode := 0x120000, revision := 0x01 }

/-- The instance numbers of a register at a distance from its base. -/
def instAt : List (Nat × Nat) → Nat → Option (Nat × Nat)
  | [], 0 => some (0, 0)
  | [], _ => none
  | [(n, a)], d => if d % a = 0 ∧ d / a < n then some (d / a, 0) else none
  | (n, a) :: (m, b) :: _, d =>
    if d / a < n ∧ d % a % b = 0 ∧ d % a / b < m then some (d / a, d % a / b) else none

/-- The register that begins at an offset; the first instance number of a register of R545 is the function's. -/
def regAt (f : Fn) (off : Nat) : Option Reg :=
  RegName.all.findSome? fun n =>
    let t := n.spec
    if off < t.base then none
    else (instAt t.idx (off - t.base)).map fun i => { name := n, i := if t.perFn then f.idx else i.1, j := i.2 }

/-- The register that holds the 32-bit word at an offset, and whether the word is its high half. -/
def wordAt (f : Fn) (off : Nat) : Option (Reg × Bool) :=
  match regAt f off with
  | some r => some (r, false)
  | none =>
    if off % 8 = 4 then
      match regAt f (off - 4) with
      | some r => if r.name.spec.width = 64 then some (r, true) else none
      | none => none
    else none

/-- The bits of a register that an image may carry (R535); none where it may carry none. -/
def carried (n : RegName) : Option Nat :=
  let all := some n.mask.toNat
  match n with
  | .hostPartCfg | .hostTrainCfg | .memMap | .memStage | .dieDroopCfg | .pwrCapHost | .pwrSupplyCfg | .pwrThermal | .pwrPart | .pwrPhase
  | .telLoLimits | .telLoPolicy | .telStatGroups | .redCfg | .redWait | .fabTorus | .fabRecalCfg | .fltScrubCfg | .fltCeLimit => all
  | .hostMgmt => some 0xFFFF0000
  | .pwrShed => some 0x7FF
  | .pwrCtrl => some (0x3F + 0xFF * 2 ^ 8 + 0x7FF * 2 ^ 16)
  | .redNoiseCfg => some 0xFF
  | _ => none

/-- The register and bits that an image entry for an address may carry. -/
def carriedAt (a : Nat) : Option (Reg × Nat) :=
  match regAt .pf0 a with
  | some r => (carried r.name).map fun m => (r, m)
  | none => none

end Sys2Proof.Machine
end

