-- ==== Sys2Proof/Machine/Settings.lean ====
section
/-! DEFINITION. The settings memory: journal records (R527), the scan of a journal (R528, R530, R531), consolidation (R529) and the
stores (R532, R533). -/

namespace Sys2Proof.Machine

/-! ### Bytes -/

/-- Bytes of the settings memory set; a byte that is not listed is 0. -/
def nvsSet (cells : List Host.Cell) (at_ : Nat) (bs : List Byte) : List Host.Cell :=
  bs.zipIdx.foldl (fun c e => cellSet c (at_ + e.2) (if e.1 = 0 then none else some e.1)) cells

/-- Bytes written into the settings memory. -/
def nvsPut (at_ : Nat) (bs : List Byte) : Upd := .nvs fun x => { x with cells := nvsSet x.cells at_ bs }

def cellsAt (cells : List Host.Cell) (a n : Nat) : List Byte := (List.range n).map fun k => (cellGet cells (a + k)).getD 0
def nvsAt (s : State) (a n : Nat) : List Byte := cellsAt s.nvs.cells a n

/-! ### Records -/

/-- A journal record with its blob data (R527). -/
structure JRec where
  kind : Nat
  seq : Nat := 0
  addr : Nat := 0
  mask : Nat := 0
  value : Nat := 0
  data : List Byte := []
  deriving DecidableEq, Repr

def JRec.slots (r : JRec) : Nat := 1 + (r.data.length + 31) / 32

/-- The slots of a record: 32 bytes with the CRC, then blob data padded with zeros. -/
def JRec.bytes (r : JRec) : List Byte :=
  let head := List.flatten [bytesOf 1 r.kind, bytesOf 3 0, bytesOf 4 r.seq, bytesOf 4 r.addr, bytesOf 4 r.mask, bytesOf 4 r.value, bytesOf 8 0]
  List.flatten [head, bytesOf 4 (crc32 (head ++ r.data)), r.data, List.replicate ((r.slots - 1) * 32 - r.data.length) 0]

/-- The fields of the 32 bytes at a place, without their checks. -/
def jrecRaw (bs : List Byte) : JRec :=
  let v := natOf bs
  { kind := v % 256, seq := v / 2 ^ 32 % 2 ^ 32, addr := v / 2 ^ 64 % 2 ^ 32, mask := v / 2 ^ 96 % 2 ^ 32, value := v / 2 ^ 128 % 2 ^ 32 }

/-- KIND is valid in the region (R527). -/
def kindOk (factory : Bool) (k : Nat) : Bool :=
  [1, 2, 3, 0x10].contains k || (factory && k == 0x20) || (!factory && k == 0x30)

def blobOk (len : Nat) : Bool := decide (1 ≤ len ∧ len ≤ 4064)

/-- A record with a valid KIND and CRC at a place of a region. -/
def jrecAt (cells : List Host.Cell) (factory : Bool) (a : Nat) : Option JRec :=
  let bs := cellsAt cells a 32
  let r := jrecRaw bs
  let d := if r.kind = 0x20 ∧ blobOk r.mask then cellsAt cells (a + 32) r.mask else []
  if kindOk factory r.kind && (r.kind != 0x20 || blobOk r.mask) && crc32 (bs.take 28 ++ d) == natOf (bs.drop 28) then some { r with data := d } else none

/-! ### Regions -/

/-- Slots of a FACTORY region or a USER bank. -/
def regionSlots : Nat := 32768
def factoryBase : Nat := 0
def bankBase (b : Nat) : Nat := 0x100000 + b * 0x100000

/-- Records of a journal from slot i on, with their slots, and the slot at which it ends (R528). -/
def scanFrom (cells : List Host.Cell) (factory : Bool) (base : Nat) : Nat → Nat → Option Nat → List (Nat × JRec) × Nat
  | 0, i, _ => ([], i)
  | n + 1, i, prev =>
    match jrecAt cells factory (base + 32 * i) with
    | none => ([], i)
    | some r =>
      let inSeq := match prev with
        | some q => decide (r.seq = (q + 1) % 2 ^ 32)
        | none => true
      if inSeq && (factory || (i == 0) == (r.kind == 0x30)) && decide (i + r.slots ≤ regionSlots) then
        let t := scanFrom cells factory base n (i + r.slots) (some r.seq)
        ((i, r) :: t.1, t.2)
      else ([], i)

/-- The effect of a record on the entries of an image (R529). -/
def entryApply (m : Tbl Nat (Nat × Nat)) (r : JRec) : Tbl Nat (Nat × Nat) :=
  if r.kind = 1 then
    let e := tget m r.addr (0, 0)
    tset m r.addr (e.1 ||| r.mask, (e.2 &&& (e.2 ^^^ (e.2 &&& r.mask))) ||| (r.value &&& r.mask))
  else if r.kind = 2 then tdel m r.addr
  else if r.kind = 3 then []
  else m

/-- Records up to and including the last COMMIT (R528). -/
def committed (l : List (Nat × JRec)) : List (Nat × JRec) := (l.reverse.dropWhile fun e => decide (e.2.kind ≠ 0x10)).reverse

/-- Slots of a region in which a byte is listed. -/
def listedSlots (cells : List Host.Cell) (base : Nat) : List Nat :=
  (cells.filterMap fun c => if base ≤ c.1 ∧ c.1 < base + 32 * regionSlots then some ((c.1 - base) / 32) else none).eraseDups

/-- A journal as its scan finds it. -/
def journalOf (cells : List Host.Cell) (factory : Bool) (base : Nat) : Journal :=
  let t := scanFrom cells factory base regionSlots 0 none
  let im := committed t.1
  let last := match t.1.getLast? with
    | some e => e.2.seq
    | none => 0
  { next := match im.getLast? with
      | some e => e.1 + e.2.slots
      | none => 0
    tornEnd := t.2 + 1
    seq := match im.getLast? with
      | some e => e.2.seq
      | none => 0
    entries := im.foldl (fun m e => entryApply m e.2) []
    torn := decide (im.length < t.1.length)
    damaged := (listedSlots cells base).any fun k => decide (t.2 ≤ k) && (match jrecAt cells factory (base + 32 * k) with
      | some r => decide (last < r.seq)
      | none => false) }

/-- SEQ of a bank's BANK_HEADER where a COMMIT follows it (R530). -/
def bankSeq (cells : List Host.Cell) (b : Nat) : Option Nat :=
  let t := scanFrom cells false (bankBase b) regionSlots 0 none
  if (committed t.1).isEmpty then none else (t.1.head?).map fun e => e.2.seq

/-- The USER bank in force (R530). -/
def bankInForce (cells : List Host.Cell) : Nat :=
  match bankSeq cells 0, bankSeq cells 1 with
  | some a, some b => if a < b then 1 else 0
  | none, some _ => 1
  | _, _ => 0

/-- The journals as a scan finds them. -/
def Nvs.rescan (x : Nvs) : Nvs :=
  let b := bankInForce x.cells
  { x with bank := b, user := journalOf x.cells false (bankBase b), factory := journalOf x.cells true factoryBase }

/-- Entries in ascending address. -/
def entryInsert : List (Nat × Nat × Nat) → Nat × Nat × Nat → List (Nat × Nat × Nat)
  | [], e => [e]
  | h :: t, e => if e.1 < h.1 then e :: h :: t else h :: entryInsert t e
def sortEntries (m : Tbl Nat (Nat × Nat)) : List (Nat × Nat × Nat) := m.foldl (fun l e => entryInsert l e) []

/-- The USER digest (R529). -/
def userDigest (x : Nvs) : BitVec 384 :=
  Config.sha384 ((sortEntries x.user.entries).flatMap fun e => bytesOf 4 e.1 ++ bytesOf 4 e.2.1 ++ bytesOf 4 e.2.2)

/-! ### Stores -/

/-- NVS_IRQ, when DONE is set (R542). -/
def nvsIrq : Act := fun s => if s.flag F.nvsIrqEn then sendMsix s.mgmt (s.get F.nvsIrqVector) s else []

/-- A settings store ends with a result (R532). -/
def storeEnd (result : Nat) : Act :=
  (Act.of [.fld F.nvsCmdStatusBusy 0 0 0, .fld F.nvsCmdStatusDone 0 0 1, .fld F.nvsCmdStatusResult 0 0 result, .nvs fun x => { x with job := none }]).seq nvsIrq

/-- A staged record is bad by itself (R532, R533). -/
def stagedBad (factory : Bool) (bs : List Byte) (r : JRec) : Bool :=
  (bs.drop 1).take 3 != List.replicate 3 0 || (bs.drop 20).take 8 != List.replicate 8 0 ||
    !([1, 2, 3].contains r.kind || (factory && r.kind == 0x20)) ||
    (decide (r.kind = 1 ∨ r.kind = 2) && (match carriedAt r.addr with
      | some (_, m) => r.kind == 1 && r.mask &&& m != r.mask
      | none => true)) ||
    (r.kind == 0x20 && !(blobOk r.mask && decide (1 ≤ r.addr ∧ r.addr ≤ 3)))

/-- The staged records from the i-th on, which begins at a slot; else the index of the first bad one. -/
def stagedFrom (stage : List Byte) (factory : Bool) : Nat → Nat → Nat → Nat ⊕ List JRec
  | 0, _, _ => .inr []
  | n + 1, i, k =>
    let bs := (stage.drop (32 * k)).take 32
    let r := jrecRaw bs
    let r := if r.kind = 0x20 then { r with data := (stage.drop (32 * k + 32)).take r.mask } else r
    if stagedBad factory bs r || decide (stage.length < 32 * (k + r.slots)) || (r.kind == 0x20 && r.data.length != r.mask) then .inl i
    else match stagedFrom stage factory n (i + 1) (k + r.slots) with
      | .inl b => .inl b
      | .inr l => .inr (r :: l)

/-- Writes of records from a slot and a sequence number on, with the slot and the number after them. -/
def recWrites (base : Nat) : List JRec → Nat → Nat → List (Nat × List Byte) × Nat × Nat
  | [], k, q => ([], k, q)
  | r :: t, k, q =>
    let w := recWrites base t (k + r.slots) ((q + 1) % 2 ^ 32)
    ((base + 32 * k, { r with seq := q }.bytes) :: w.1, w.2.1, w.2.2)

def commitRec : JRec := { kind := 0x10 }
def headerRec : JRec := { kind := 0x30 }

/-- Zero words over the recorded torn slots that a batch does not overwrite (R531). -/
def zeroSlots (base from_ to_ : Nat) : List (Nat × List Byte) :=
  (List.range (to_ - from_)).map fun k => (base + 32 * (from_ + k), List.replicate 32 0)

/-- The writes of a batch and the journal that it leaves; none where it does not fit (R530-R532). -/
def storeJob (x : Nvs) (factory : Bool) (rs : List JRec) : Option StoreJob :=
  let j := if factory then x.factory else x.user
  let m := rs.foldl entryApply j.entries
  let batch := (if !factory && j.next == 0 then [headerRec] else []) ++ rs ++ [commitRec]
  let base := if factory then factoryBase else bankBase x.bank
  let w := recWrites base batch j.next ((j.seq + 1) % 2 ^ 32)
  if w.2.1 ≤ regionSlots then
    some { factory := factory, bank := x.bank, writes := zeroSlots base w.2.1 j.tornEnd ++ w.1
           after := { next := w.2.1, tornEnd := w.2.1, seq := (w.2.2 + 2 ^ 32 - 1) % 2 ^ 32, entries := m } }
  else if factory then none
  else
    let sets : List JRec := (sortEntries j.entries).map fun e => { kind := 1, addr := e.1, mask := e.2.1, value := e.2.2 }
    let w := recWrites (bankBase (1 - x.bank)) (List.flatten [[headerRec], sets, [commitRec], rs, [commitRec]]) 0 ((j.seq + 1) % 2 ^ 32)
    some { factory := false, bank := 1 - x.bank, writes := w.1
           after := { next := w.2.1, tornEnd := w.2.1, seq := (w.2.2 + 2 ^ 32 - 1) % 2 ^ 32, entries := m } }

/-- A store refused at once. -/
def storeRefused (result bad : Nat) : Act := (Act.of [.fld F.nvsCmdStatusBadIndex 0 0 bad]).seq (storeEnd result)

/-- NVS_CMD.STORE as the management owner f writes it (R488, R532, R533). -/
def settingsStoreAct (f : Fn) : Act := fun s =>
  let factory := s.flag F.nvsStageCtrlTarget
  let state := s.sec.fuseState
  if s.flag F.nvsCmdStatusBusy then regMark f ⟨.nvsCmd, 0, 0⟩ { busy := true } s
  else if s.sec.restarting || state == 2 || (factory && state != 0) then storeRefused 4 0 s
  else match stagedFrom s.nvs.stage factory (s.get F.nvsStageCtrlCountMinus1 + 1) 0 0 with
    | .inl bad => storeRefused 2 bad s
    | .inr rs =>
      if !factory && decide (4096 < (rs.foldl entryApply s.nvs.user.entries).length) then storeRefused 3 0 s
      else match storeJob s.nvs factory rs with
        | none => storeRefused 3 0 s
        | some j => [.fld F.nvsCmdStatusBusy 0 0 1, .fld F.nvsCmdStatusBadIndex 0 0 0, .nvs fun x => { x with job := some j }]

/-- Writes put into the settings memory. -/
def nvsWrites (ws : List (Nat × List Byte)) : List Upd := ws.map fun w => nvsPut w.1 w.2

/-- The part of a store in progress that had reached the settings memory when the store broke off: a prefix of its writes (log 1).
Its last record is missing, so the next start drops the batch (R528, R533). -/
def storeTorn : Act := fun s =>
  match s.nvs.job with
  | none => []
  | some j =>
    let n := Config.freeNat s.free % Nat.max 1 j.writes.length
    nvsWrites (j.writes.take n) ++ [.nvs Nvs.rescan, .draw 1]

/-- The registers that show the USER journal (R532, R542). -/
def nvsShow : Act := fun s =>
  [.fld F.nvsSeqSeq 0 0 s.nvs.user.seq, .fld F.nvsStatusLive 0 0 s.nvs.user.entries.length]

/-- SETTINGS_STORE_COMPLETE, steps 4 and 5 of R532. Where the read-back fails, the records stay without their COMMIT, and one byte of
them is open (log 1). -/
def storeComplete (ok : Bool) : Act := fun s =>
  match s.nvs.job with
  | none => []
  | some j =>
    if ok then Act.all [
      Act.of (nvsWrites j.writes),
      Act.of [.nvs fun x => if j.factory then { x with factory := j.after } else { x with bank := j.bank, user := j.after }],
      nvsShow,
      storeEnd 1] s
    else
      let ws := j.writes.dropLast
      let bad := Config.freeNat s.free % Nat.max 1 ws.length
      let k := Config.freeNat (s.free + 1) % 32
      Act.all [
        Act.of (nvsWrites ws ++ (match ws[bad]? with
          | some w => [nvsPut (w.1 + k) [Config.freeByte s.free k]]
          | none => []) ++ [.nvs Nvs.rescan, .draw 2]),
        nvsShow,
        logUnit 0x8004 4 0 none none,
        storeEnd 5] s

end Sys2Proof.Machine
end

