-- ==== Sys2Proof/Machine/Recovery.lean ====
section
/-! DEFINITION. Aborts and partition faults (R470, R471, R482-R484), function resets (R471, R560), management ownership
(R467-R469), host reads and writes through BAR4 (R463, R479), scrub and corrected errors (R489-R491), the fault log's commits (R487)
and the management core's restart (R488). -/

namespace Sys2Proof.Machine

/-! ### Discarding a partition's work -/

/-- Nothing of the partition is left to complete: no store is on its way to memory (R470 step 5), no step boundary waits for its
record (R298). -/
def drained (s : State) (p : Nat) : Bool :=
  !(s.stores.any fun x => x.issued && s.partOfCore x.core == p) && (s.part p).boundary.isEmpty

/-- Steps 4 to 6 of R470: running work, requests, collectives, gates, streams, dirty marks and pending ratchet changes. Output tile
buffers keep their rows. -/
def clearWork (p : Nat) : Act := fun s =>
  Act.all [
    Act.each ((s.tasks.filter fun t => t.p == p).map (·.id)) discardTask,
    Act.of [.reqs fun l => l.filter fun r => s.partOfCore r.core != p, .stores fun l => l.filter fun x => s.partOfCore x.core != p],
    Act.of ((s.coresOf p).map fun c => .core c fun k => { tileA := k.tileA, tileB := k.tileB, kindA := k.kindA, kindB := k.kindB }),
    Act.of ((s.diesOf p).map fun d => .die d fun _ => {}),
    Act.of [.part p fun y => { y with atsReqs := [], stepReached := [], stepOuts := [], tally := { y.tally with list := [] } }, basteClear p,
      .fn (s.owner p) fun y => { y with prq := y.prq.filter fun r => decide (r.p ≠ p) }],
    fun s => gatesZero s p,
    flushInvs (s.owner p)] s

/-- Every queue is disabled; HEAD holds the first task not completed, and records that wait for ring space stay (R470 step 7). -/
def queuesDisable (p : Nat) : Act := fun _ =>
  ((List.range 64).map fun q => [Upd.fld F.hostQCtrlEn p q 0, .fld F.hostQStatusHeld p q 0, .fld F.hostQStatusRunning p q 0,
    .queue p q fun x => { records := x.records }]).flatten

def clearFaulted (p : Nat) : Act := Act.of [.fld F.fltPartStatusFaulted p 0 0, .part p fun y => { y with clearDue := false }]

/-! ### Aborts -/

/-- The module has no power for work (R470: steps 2 to 7 have nothing to do). -/
def asleep (s : State) : Bool := s.get F.pwrStateModule == 4 || s.power.off

def abortVector (f : Fn) : Act := fun s => sendMsix f (s.get F.hostAbortVector f.idx) s

/-- A write of GO while no abort of f is in progress (R470 steps 1 to 4): no dispatch, no doorbell, no issue; the partitions' halted
cores are released (R515) and their collectives leave Tally's list. In a partition whose verdict has arrived, steps 4 to 7 of R297 come
first (R298). -/
def abortEffect (f : Fn) : Act := fun s =>
  let ps := s.partsOf f
  let i := f.idx
  if asleep s || ps.isEmpty then
    Act.all [Act.of [.fld F.hostAbortStatusDone i 0 1, .fld F.hostAbortStatusFromFold i 0 0], abortVector f] s
  else
    Act.all [
      Act.of [.fld F.hostAbortStatusBusy i 0 1, .fld F.hostAbortStatusFromFold i 0 (if ps.any (folded s) then 1 else 0)],
      Act.each ps fun p => if verdictWaits s p then Act.of [.part p fun y => { y with abortWaits := true }] else abortBegin p,
      updFold] s

/-- GO as it is written (R471). -/
def abortGo (by_ f : Fn) : Act := fun s =>
  if s.flag F.hostAbortStatusBusy f.idx then regMark by_ ⟨.hostAbort, f.idx, 0⟩ { busy := true } s else abortEffect f s

/-- The abort of f may end: everything has drained, and the later of its own step 7 and step 3 of R482 has come (R483). -/
def abortReady (s : State) (f : Fn) : Bool :=
  s.flag F.hostAbortStatusBusy f.idx && (s.partsOf f).all fun p => drained s p && !(s.part p).abortWaits && (s.part p).faultPending.isNone

/-- Steps 4 to 7 of R470. -/
def abortFinish (f : Fn) : Act := fun s =>
  Act.all [
    Act.each (s.partsOf f) fun p => Act.all [clearWork p, queuesDisable p, Act.of [.part p fun y => { y with draining := false }]],
    Act.of [.fld F.hostAbortStatusBusy f.idx 0 0, .fld F.hostAbortStatusDone f.idx 0 1],
    abortVector f,
    updFold] s

/-! ### Function resets -/

/-- The function's configuration space takes its reset state: MSI-X is disabled, CFG_ERR clears, its host translations are dropped
(R471, R548). -/
def functionReset (f : Fn) : Act := fun s =>
  [.fn f fun y => { y with msix := [], pba := [], msixEnable := false, d3hot := false }, .resetReg ⟨.cfgErr, f.idx, 0⟩, .resetReg ⟨.cfgErrAddr, f.idx, 0⟩] ++
    (s.partsOf f).map fun p => .part p fun y => { y with ats := [] }

/-- A step that follows the abort of f: at once where none is in progress. -/
def afterAbort (f : Fn) (d : Deferred) (a : Act) : Act := fun s => if s.flag F.hostAbortStatusBusy f.idx then defer d s else a s

def d3hotEffect (f : Fn) : Act := fun _ => [.fn f fun y => { y with d3hot := true }]

/-- FUNCTION_LEVEL_RESET (R471): the abort, then the reset. -/
def functionLevelResetAct (f : Fn) : Act :=
  (Act.when (fun s => !s.flag F.hostAbortStatusBusy f.idx) (abortEffect f)).seq (afterAbort f (.reset f) (functionReset f))

/-- The function owns work: a task of it is queued or running. -/
def ownsTasks (s : State) (f : Fn) : Bool := (s.partsOf f).any s.tasksBusy

/-- D3HOT_ENTRY (R471): with a task queued or running, the abort comes first. -/
def d3hotAct (f : Fn) : Act := fun s =>
  ((if ownsTasks s f && !s.flag F.hostAbortStatusBusy f.idx then abortEffect f else Act.skip).seq (afterAbort f (.d3hot f) (d3hotEffect f))) s

/-- LAPSED is set and the non-owner's vector sent (R469). -/
def lapse : Act := fun s =>
  Act.all [Act.set F.hostMgmtLapsed 0 0 1, sendMsix s.mgmt.other (s.get F.hostMgmtAltVector)] s

/-- The port loses its link; when it is the management owner's, this is a lapse (R469). -/
def linkLost (f : Fn) : Act := fun s =>
  let up := s.flag F.hostPortStatusUp f.idx
  Act.all [
    Act.of [.reg ⟨.hostPortStatus, f.idx, 0⟩ 0],
    if up && s.mgmt == f then lapse else Act.skip] s

/-- PERST_ASSERT (R560). -/
def perstAssertAct (f : Fn) : Act := fun s =>
  if (s.fn f).perst then []
  else Act.all [
    Act.of [.fn f fun y => { y with perst := true }],
    linkLost f,
    if (s.partsOf f).any (trainBusy s) && !s.flag F.hostAbortStatusBusy f.idx then abortEffect f else Act.skip,
    afterAbort f (.reset f) (functionReset f)] s

/-- PERST_RELEASE (R560): the port trains; in STANDBY it stays at 2.5 GT/s x1 (R472). -/
def perstReleaseAct (f : Fn) (rate width : Nat) (flit : Bool) : Act := fun s =>
  let i := f.idx
  let stage := s.get F.genStartupStage
  if !(s.fn f).perst || s.power.off then []
  else Act.all [
    Act.of [.fn f fun y => { y with perst := false }],
    if stage < 3 then Act.skip
    else if asleep s then Act.of [.fld F.hostPortStatusUp i 0 1, .fld F.hostPortStatusRate i 0 1, .fld F.hostPortStatusWidth i 0 1,
      .fld F.hostPortStatusFlit i 0 (if flit then 1 else 0)]
    else Act.of [.fld F.hostPortStatusUp i 0 1, .fld F.hostPortStatusRate i 0 rate, .fld F.hostPortStatusWidth i 0 width,
      .fld F.hostPortStatusFlit i 0 (if flit || rate == 6 then 1 else 0)]] s

/-! ### Partition faults (R481-R484) -/

/-- PARTITION_FAULT: the hub receives a fault of partition scope. -/
def partitionFaultAct (p code : Nat) : Act := fun s =>
  if s.partExists p && !asleep s then ((partitionFault { code := code, scope := 2, part := some p, unit := 4 } p).seq updFold) s else []

/-- PARTITION_FAULT_COMPLETE: step 3 of R482. -/
def partitionFaultCompleteAct (p : Nat) : Act := fun s =>
  match (s.part p).faultPending with
  | none => []
  | some r =>
    if !drained s p then []
    else Act.all [
      clearWork p,
      queuesDisable p,
      logRec r,
      Act.when (fun s => s.flag F.fltPartIrqEn p) (fun s => sendMsix (s.owner p) (s.get F.fltPartIrqVector p) s),
      Act.of [.part p fun y => { y with faultPending := none, draining := abortOf s p }],
      if (s.part p).clearDue && !s.flag F.fltPartStatusReclaiming p then clearFaulted p else Act.skip,
      updFold] s

/-- A write of FLT_PART_CTRL_p by function f (R484). -/
def partCtrlAct (f : Fn) (p : Nat) (clear reclaim : Bool) : Act := fun s =>
  if !clear && !reclaim then []
  else if (trainBusy s p || abortOf s p) && !s.flag F.fltPartStatusFaulted p then regMark f ⟨.fltPartCtrl, p, 0⟩ { busy := true } s
  else Act.all [
    if reclaim then Act.set F.fltPartStatusReclaiming p 0 1 else Act.skip,
    if !clear then Act.skip
    else if reclaim || (s.part p).faultPending.isSome then Act.of [.part p fun y => { y with clearDue := true }]
    else clearFaulted p] s

/-- Zero over a physical range, with its poison marks cleared (R484). -/
def zeroRange (lo hi : Nat) : Act := fun s =>
  .fill lo hi false :: (s.mem.poison.filter fun g => decide (lo ≤ 64 * g ∧ 64 * g < hi)).map fun g => .poison g false

/-- RECLAIM_COMPLETE (R484). -/
def reclaimCompleteAct (p : Nat) : Act := fun s =>
  if !s.flag F.fltPartStatusReclaiming p then []
  else Act.all [
    Act.each (s.diesOf p) fun d => (zeroRange (bufferBase d) (bufferBase d + 0x4000000)).seq (zeroRange (localBase (36 * d)) (localBase (36 * d) + 36 * 0x200000)),
    Act.of ((s.coresOf p).map fun c => .core c fun k => { k with tileA := [], tileB := [] }),
    Act.set F.fltPartStatusReclaiming p 0 0,
    if (s.part p).clearDue && (s.part p).faultPending.isNone then clearFaulted p else Act.skip] s

/-! ### Management ownership (R467-R469) -/

inductive MgmtCmd | heartbeat | give | takeover
  deriving DecidableEq, Repr

/-- A command of R467 is accepted. During a restart of the management core it is refused (R488). -/
def mgmtOk (s : State) (f : Fn) (c : MgmtCmd) : Bool :=
  !s.sec.restarting && match c with
    | .heartbeat | .give => s.mgmt == f
    | .takeover => s.mgmt != f && (!s.flag F.hostPortStatusUp s.mgmt.idx || (s.get F.hostMgmtHbMs != 0 && (s.fn s.mgmt).hbLate))

/-- The consequences of a change of owner (R468). -/
def ownerMove (f : Fn) : Act := Act.of [
  .fld F.hostMgmtOwner 0 0 f.idx, .fld F.hostMgmtLapsed 0 0 0,
  .fn .pf0 fun y => { y with hbLate := false }, .fn .pf1 fun y => { y with hbLate := false }]

/-- A management command of function f. -/
def mgmtCmdAct (f : Fn) (c : MgmtCmd) : Act := fun s =>
  if !mgmtOk s f c then Act.all [Act.set F.hostMgmtLast 0 0 2, regMark f ⟨.hostMgmtCmd, 0, 0⟩ { acc := true }] s
  else Act.all [
    Act.set F.hostMgmtLast 0 0 1,
    match c with
    | .heartbeat => Act.of [.fn f fun y => { y with hbLate := false }]
    | .give => ownerMove f.other
    | .takeover => ownerMove f] s

/-- HEARTBEAT_LAPSE: once per lapse (R469). -/
def heartbeatLapseAct : Act := fun s =>
  if s.get F.hostMgmtHbMs = 0 ∨ (s.fn s.mgmt).hbLate = true then []
  else ((Act.of [.fn s.mgmt fun y => { y with hbLate := true }]).seq lapse) s

/-- OWNER_LINK_LOSS (R469). -/
def ownerLinkLossAct : Act := fun s => if s.flag F.hostPortStatusUp s.mgmt.idx then linkLost s.mgmt s else []

/-! ### BAR4 (R463, R464, R479, R538) -/

/-- How a BAR4 access of n bytes is judged: served at a physical address, or marked. -/
inductive BarRes
  | ok (pa : Nat)
  | marked (m : Mark)
  | dead
  deriving DecidableEq, Repr

def bar4Judge (s : State) (f : Fn) (off n : Nat) : BarRes :=
  if barsDead s || (s.fn f).perst then .dead
  else
    let pa := s.get F.hostBar4WinBase f.idx * 2 ^ 36 + off
    let as := (List.range n).map fun k => pa + k
    let served := fun a => match (placeOf a).die with
      | some d => s.owns f (s.partOfDie d) && !s.inStage a
      | none => false
    let tier := fun a => match placeOf a with
      | .tier1 _ | .tier2 _ => true
      | _ => false
    if !as.all served then .marked { acc := true }
    else if !s.flag F.genStartupTiersReady && as.any tier then .marked { busy := true }
    else .ok pa

/-- A byte that a BAR4 read returns: while a task writes it, the old or the new bits, and which is open (R464). -/
def barByte (s : State) (a : Nat) : Byte :=
  match s.stores.find? (fun st => decide (st.loc ≤ a ∧ a < st.loc + st.bytes.length)) with
  | some st => if (Config.freeByte s.free a).toNat % 2 = 0 then s.byteAt a else st.bytes.getD (a - st.loc) 0
  | none => s.byteAt a

/-- BAR4_READ. -/
def bar4ReadAct (f : Fn) (off n : Nat) : Act := fun s =>
  match bar4Judge s f off n with
  | .dead => if s.flag F.secLifecycleRecovery || (s.fn f).perst || s.power.off then [] else [.emit (.read f (List.replicate n 0) false)]
  | .marked m => .emit (.read f (List.replicate n 0) false) :: cfgMark f m 2 off false s
  | .ok pa => [.emit (.read f ((List.range n).map fun k => barByte s (pa + k)) (s.poisonIn pa n).isSome), .draw 1]

/-- BAR4_WRITE. A write that arrives poisoned poisons every granule that it covers (R479). -/
def bar4WriteAct (f : Fn) (off : Nat) (data : List Byte) (poisoned : Bool) : Act := fun s =>
  match bar4Judge s f off data.length with
  | .dead => []
  | .marked m => cfgMark f m 2 off true s
  | .ok pa =>
    if poisoned then Act.each (((List.range data.length).map fun k => (pa + k) / 64).eraseDups) (fun g => poisonGranule (64 * g)) s
    else storeBytes pa data s

/-! ### Failed host reads (R460) -/

/-- HOST_READ_ERROR. A failed read ahead of its consumer is dropped and fetched again. -/
def hostReadErrorAct (r : HostRead) : Act := fun s =>
  match r with
  | .stream core ctx =>
    (match s.reqs.find? fun q => q.core == core.val && q.ctx == ctx.val && isHostLoc q.loc with
    | none => []
    | some q => Act.all [
        Act.of [.reqs fun l => l.filter fun y => decide (y.id ≠ q.id)],
        if q.dead then Act.skip
        else if reached s q then taskFault q.task 0x1101 4 core
        else Act.of [updStream core ctx q.slot fun st => match q.later with
          | some t => { st with later := st.later.map fun x => if x.task = t then { x with ahead := 0 } else x }
          | none => { st with ahead := st.pos }],
        flushInvs (hostFn q.loc)] s)
  | .fetch p q =>
    let x := s.queue p q
    if partOpen s p && s.flag F.hostQCtrlEn p q && !s.flag F.hostQStatusHeld p q && x.fetched.isNone then fetchFault p q 0x1101 none s else []
  | .table p q => if partOpen s p && (s.queue p q).fetched.isSome then fetchFault p q 0x1101 none s else []
  | .instr c =>
    let x := (s.core c).running
    match canRun s c x with
    | none => []
    | some t => match translate s t.p (pasidKey s t.p t.q) t.desc.bva (t.desc.block + 16 * ((s.core c).ctx x).slot) false with
      | .ok l _ => if isHostLoc l then taskFault t.id 0x1101 (dieOfCore c) c none s else []
      | _ => []

/-! ### Scrub and corrected errors (R489-R491) -/

def isTier (a : Nat) : Bool := match placeOf a with
  | .tier1 _ | .tier2 _ => true
  | _ => false

/-- The tier of an address is ready and out of self-refresh: its partition is not folded, and no off part of 200 microseconds or more of a
1 ms period, D at most 51, goes on (R441, R442). -/
def tierAwake (s : State) (a : Nat) : Bool :=
  s.flag F.genStartupTiersReady && !asleep s && match (placeOf a).die with
    | some d => !folded s (s.partOfDie d) && !(s.power.offPart && s.get F.pwrLimitsBinding != 3 && decide (s.get F.pwrFoldDuty ≤ 51))
    | none => false

/-- Progress of the scrub schedules after a read (R490, R495): how far they are, and whether a forced one is on schedule again, are
open (log 1). -/
def scrubProgress (u : CeUnit) : Act := fun s =>
  let w := tget s.ce (ceIx u) {}
  let still := w.forced && Config.freeNat (s.free + 1) % 2 == 1
  let others := s.ce.any fun e => decide (e.1 ≠ ceIx u) && e.2.forced
  (if w.forced then [.add ⟨.fltScrubForcedSlots, 0, 0⟩ 1, .ce fun l => tset l (ceIx u) { w with forced := still }] else []) ++
    [.fld F.fltScrubStatusPassPct 0 0 (Config.freeNat s.free % 101),
     .fld F.fltScrubStatusForced 0 0 (if still || others then 1 else 0),
     .fld F.fltScrubStatusBehind 0 0 (if still || others then 1 else Config.freeNat (s.free + 2) % 2), .draw 3]

/-- PATROL_SCRUB_READ (R490): a corrected error is counted, and its write-back, cancelled or not, leaves the data as they are; an
uncorrectable one poisons the granule; poison found is reported once per granule (R479). -/
def patrolScrubAct (a : Nat) (found : MemErr) : Act := fun s =>
  let u := ceUnitOf s a
  let g := a / 64
  if !s.flag F.fltScrubCfgEn || !isTier a || !tierAwake s a then []
  else Act.all [
    scrubProgress u,
    if s.mem.isPoison a then Act.skip else memError a found,
    Act.look fun s =>
      if s.mem.isPoison a && !s.mem.reported.contains g then
        (Act.of [.reported g]).seq (logFault { code := 0x1011, scope := 0, part := none, unit := (cePlace u).1, slot := (cePlace u).2, addr := some (64 * g, false) })
      else Act.skip] s

/-- SCRUB_FORCE (R490). -/
def scrubForceAct (u : CeUnit) : Act := fun s =>
  if ceIx u < 48 ∧ s.flag F.fltScrubCfgEn = true ∧ asleep s = false then
    [.ce fun l => tset l (ceIx u) { (tget l (ceIx u) {}) with forced := true }, .fld F.fltScrubStatusForced 0 0 1, .fld F.fltScrubStatusBehind 0 0 1]
  else []

/-- ONCHIP_SCRUB of a local memory or die buffer (R489). -/
def onchipScrubAct (a : Nat) (found : MemErr) : Act := fun s =>
  match placeOf a with
  | .localMem _ | .buffer _ => if asleep s then [] else memError a found s
  | _ => []

/-- TELEMETRY_SAMPLE (R488, R489, R496). -/
def telemetrySampleAct (lost : Bool) : Act := fun s => if lost || s.sec.restarting then [.add ⟨.fltTelDrops, 0, 0⟩ 1] else []

/-! ### The settings memory's background work (R487, R489, R526) -/

/-- The 32 bytes of a fault record (R486). -/
def FaultRec.bytes (r : FaultRec) : List Byte :=
  bytesOf 4 (r.code % 2 ^ 16 + 2 ^ 16 * (r.scope % 4) + (match r.part with
    | some p => 2 ^ 18 * (p % 4) + 2 ^ 20
    | none => 0) + 2 ^ 21 * (r.unit % 8) + (if r.nv then 2 ^ 24 else 0)) ++
  bytesOf 4 (r.core % 256 + (match r.queue with
    | some q => 256 * (q % 64) + 2 ^ 14
    | none => 0) + 2 ^ 16 * (r.slot % 16)) ++
  bytesOf 4 (if r.queue.isSome then r.index else 0) ++ bytesOf 4 r.repeats ++
  bytesOf 8 (match r.addr with
    | some (a, va) => a % 2 ^ 56 + (if va then 2 ^ 62 else 0) + 2 ^ 63
    | none => 0) ++
  bytesOf 8 r.time

/-- Record n of the volatile log, newest first at the head (R486). -/
def logAt (s : State) (n : Nat) : Option FaultRec := if n < s.logCount then s.log[s.logCount - 1 - n]? else none

def hourNs : Nat := 3600000000000

/-- FAULT_LOG_COMMIT (R487): behind every other store (R489), at most once per second and 256 records per hour. -/
def faultLogCommitAct : Act := fun s =>
  let x := s.nvs
  let ready := match x.lastCommit with
    | some t => decide (t + 1000000000 ≤ s.time)
    | none => true
  if x.due.isEmpty || !ready || x.job.isSome || s.sec.lmsStoring || s.power.off then []
  else
    let hour := x.hour.filter fun t => decide (s.time < t + hourNs)
    let now := x.due.take (256 - hour.length)
    let i := (s.reg ⟨.nvsFlogCount, 0, 0⟩).toNat
    Act.all [
      Act.of (now.zipIdx.map fun e => nvsPut (0x310000 + (i + e.2) % 8192 * 32) ({ ((logAt s e.1.1).getD e.1.2) with nv := true }.bytes)),
      Act.of [.log fun l => l.zipIdx.map fun e => if now.any (fun d => d.1 + 1 + e.2 == s.logCount) then { e.1 with nv := true } else e.1,
        .add ⟨.nvsFlogCount, 0, 0⟩ now.length, .add ⟨.fltNvSkipped, 0, 0⟩ (x.due.length - now.length),
        .nvs fun y => { y with due := [], lastCommit := some s.time, hour := hour ++ List.replicate now.length s.time }]] s

/-- Fields of NVS_WEAR by region: USER, FACTORY, LMS, FAULT_LOG. -/
def wearFld (r : Nat) : Fld := ⟨.nvsWear, 8 * r, 8⟩

/-- WEAR_MANAGEMENT (R489, R526): it moves a block, and the most-worn block of the region then has the given number of writes. -/
def wearAct (r worst : Nat) : Act := fun s =>
  if s.nvs.job.isSome || s.sec.lmsStoring || s.power.off then []
  else Act.all [
    Act.of [.fld (wearFld r) 0 0 (Nat.min 255 (worst / 1000)), .nvs fun x => { x with worn := tset x.worn r worst }],
    if 90000 ≤ worst ∧ !s.nvs.reported.contains r then
      (Act.of [.nvs fun x => { x with reported := r :: x.reported }]).seq (logUnit 0x8006 4 0 none none)
    else Act.skip] s

/-! ### The management core's restart (R488) -/

/-- MGMT_WATCHDOG (R488, R533). -/
def mgmtWatchdogAct : Act := fun s =>
  if s.power.off || s.sec.restarting then []
  else Act.all [
    Act.of [.sec fun x => { x with restarting := true }],
    logUnit 0x1030 4 0 none none,
    if s.nvs.job.isSome then storeTorn.seq (storeEnd 6) else Act.skip] s

/-! ### Steps that waited for an abort (R471) -/

/-- The abort that a waiting step waits for is still in progress. -/
def Deferred.blocked (s : State) : Deferred → Bool
  | .cfg _ p | .baste _ p | .layout _ p => abortOf s p
  | .parts _ => (partsAffected s).any (abortOf s)
  | .reset f | .d3hot f => s.flag F.hostAbortStatusBusy f.idx

def Deferred.act : Deferred → Act
  | .cfg f p => cfgCommitJudge f p
  | .baste f p => basteCommitJudge f p
  | .layout f p => layoutCommitJudge f p
  | .parts f => partsCommitJudge f
  | .reset f => functionReset f
  | .d3hot f => d3hotEffect f

/-- Waiting steps whose abort is done, in the order in which they came. -/
def runDeferred : Act := fun s =>
  Act.all [
    Act.of [.deferred fun _ => []],
    Act.each s.deferred fun d => Act.look fun s => if d.blocked s then defer d else d.act] s

/-- No HEARTBEAT has come for HB_MS (R469). -/
def execHeartbeatLapse  (s : State) : Host.Outcome State Fault Refusal := perform (heartbeatLapseAct) s
/-- The port of the management owner loses its link (R469). -/
def execOwnerLinkLoss  (s : State) : Host.Outcome State Fault Refusal := perform (ownerLinkLossAct) s
/-- A Function Level Reset (R471). -/
def execFunctionLevelReset (f : Fn) (s : State) : Host.Outcome State Fault Refusal := perform (functionLevelResetAct f) s
/-- A function moves to D3hot (R471). -/
def execD3hotEntry (f : Fn) (s : State) : Host.Outcome State Fault Refusal := perform (d3hotAct f) s
/-- HP_i_PERST_N falls (R560). -/
def execPerstAssert (f : Fn) (s : State) : Host.Outcome State Fault Refusal := perform (perstAssertAct f) s
/-- HP_i_PERST_N rises, and the port trains (R560). -/
def execPerstRelease (f : Fn) (rate width : Nat) (flit : Bool) (s : State) : Host.Outcome State Fault Refusal := perform (perstReleaseAct f rate width flit) s
/-- A read through BAR4 (R463). -/
def execBar4Read (f : Fn) (off len : Nat) (s : State) : Host.Outcome State Fault Refusal := perform (bar4ReadAct f off len) s
/-- A write through BAR4 (R463, R479). -/
def execBar4Write (f : Fn) (off : Nat) (data : List Byte) (poisoned : Bool) (s : State) : Host.Outcome State Fault Refusal := perform (bar4WriteAct f off data poisoned) s
/-- A host read fails (R460). -/
def execHostReadError (r : HostRead) (s : State) : Host.Outcome State Fault Refusal := perform (hostReadErrorAct r) s
/-- A fault of partition scope (R482). -/
def execPartitionFault (p : PartIx) (code : BitVec 16) (s : State) : Host.Outcome State Fault Refusal := perform (partitionFaultAct p code.toNat) s
/-- The handling of a partition fault ends (R482). -/
def execPartitionFaultComplete (p : PartIx) (s : State) : Host.Outcome State Fault Refusal := perform (partitionFaultCompleteAct p) s
/-- RECLAIM is done (R484). -/
def execReclaimComplete (p : PartIx) (s : State) : Host.Outcome State Fault Refusal := perform (reclaimCompleteAct p) s
/-- The management core restarts (R488). -/
def execMgmtWatchdog  (s : State) : Host.Outcome State Fault Refusal := perform (mgmtWatchdogAct) s
/-- The management core runs again (R488). -/
def execMgmtRestartComplete  (s : State) : Host.Outcome State Fault Refusal := perform (Act.of [.sec fun x => { x with restarting := false }]) s
/-- A patrol scrub read (R490). A foreground write that cancels the write-back leaves the data as it wrote them. -/
def execPatrolScrubRead (addr : Nat) (found : MemErr) (_foregroundWrite : Bool) (s : State) : Host.Outcome State Fault Refusal := perform (patrolScrubAct addr found) s
/-- A scrub schedule falls behind (R490). -/
def execScrubForce (u : CeUnit) (s : State) : Host.Outcome State Fault Refusal := perform (scrubForceAct u) s
/-- A refresh changes no state (R489). -/
def execDramRefresh (_u : CeUnit) (s : State) : Host.Outcome State Fault Refusal := perform (Act.skip) s
/-- An on-chip scrub read (R489). -/
def execOnchipScrub (addr : Nat) (found : MemErr) (s : State) : Host.Outcome State Fault Refusal := perform (onchipScrubAct addr found) s
/-- Wear management moves a block (R526). -/
def execWearManagement (region : Fin 4) (worst : Nat) (s : State) : Host.Outcome State Fault Refusal := perform (wearAct region worst) s
/-- A telemetry sample is taken or lost (R489). -/
def execTelemetrySample (lost : Bool) (s : State) : Host.Outcome State Fault Refusal := perform (telemetrySampleAct lost) s
/-- Due fault records are committed (R487). -/
def execFaultLogCommit  (s : State) : Host.Outcome State Fault Refusal := perform (faultLogCommitAct) s

end Sys2Proof.Machine
end

