-- ==== Sys2Proof/Machine/Power.lean ====
section
/-! DEFINITION. The power controller: operating points and the control tick (R33, R34, R436-R441, R447, R450), graze (R440), the
shed pin (R435), supply and temperature (R423, R433, R446), measurement (R449), STANDBY and OFF (R427), the I3C target (R434) and the
PMBus target (R563). -/

namespace Sys2Proof.Machine

/-! ### Operating points -/

/-- Core rail voltage in hundredths of a volt and typical beat rate at 60 degrees in hundredths of a G beat/s (R32). -/
def railCv : List Nat := [46, 48, 50, 52, 54, 56, 58, 60, 62, 64, 66, 69, 72, 74, 76, 78]
def beatRate : List Nat := [52, 58, 65, 71, 77, 84, 90, 95, 100, 105, 110, 116, 122, 126, 129, 132]

def opTgt (s : State) (d : Nat) : Nat := s.get F.dieOpStatusOpTgt d

/-- A die heads for an operating point (R33, R34, R44). -/
def setOp (d op : Nat) : Act := fun s =>
  if opTgt s d = op then []
  else [.fld F.dieOpStatusOpTgt d 0 op, .fld F.dieOpStatusMoving d 0 1, .power fun x => { x with moved := natInsert x.moved d }]

/-- OP_MOVE_COMPLETE (R33). -/
def opMoveCompleteAct (d : Nat) : Act := fun s =>
  if s.flag F.dieOpStatusMoving d then [.fld F.dieOpStatusOpCur d 0 (opTgt s d), .fld F.dieOpStatusMoving d 0 0] else []

/-- DROOP_EVENT_START (R35, R45): counted once per event, saturating. -/
def droopStartAct (d depth : Nat) : Act := fun s =>
  let c := (s.reg ⟨.dieDroopCount, d, 0⟩).toNat
  if s.power.droop.contains d ∨ depth ≤ Nat.max 10 (s.get F.dieDroopCfgThreshMv d) ∨ asleep s = true then []
  else [.reg ⟨.dieDroopCount, d, 0⟩ (BitVec.ofNat 64 (Nat.min (c + 1) (2 ^ 64 - 1))), .power fun x => { x with droop := d :: x.droop }]

def droopEndAct (d : Nat) : Act := fun _ => [.power fun x => { x with droop := x.droop.filter fun y => decide (y ≠ d) }]

/-! ### Requests and learned figures (R436-R438) -/

/-- Tasks that run on a die's cores. -/
def dieTasks (s : State) (d : Nat) : List Task :=
  s.tasks.filter fun t => t.started.any fun c => c / 36 == d && !(t.retired.any fun r => r.1 == c)

/-- The phase whose task asks for the highest point, with that point (R436). -/
def dieWish (s : State) (d : Nat) : Option (Nat × Nat) :=
  (dieTasks s d).foldl (fun b t =>
    let o := s.get F.pwrPhasePrefOp t.p t.desc.phase
    match b with
    | some (_, o') => if o' < o then some (t.desc.phase, o) else b
    | none => some (t.desc.phase, o)) none

/-- The point that a die asks for before MAX_OP: after 100 microseconds without a task OP_0, before that the last one. -/
def dieAsk (s : State) (d : Nat) : Nat :=
  match dieWish s d with
  | some (_, o) => o
  | none => if s.power.idle.contains d then 0 else tget s.power.lastReq d 0

/-- The requested point (R436), at most OP_0 while a core of the partition is halted (R515). -/
def requested (s : State) (d : Nat) : Nat :=
  let p := s.partOfDie d
  if haltIn s p then 0 else Nat.min (dieAsk s d) (partCtl s F.pwrPartMaxOp p)

/-- The learned figures of a partition and phase at a point, else those derived from the nearest learned point (R437): power in
tenths of a watt scaled by voltage squared times beat rate, the same progress. -/
def figure (s : State) (p t op : Nat) : Option (Nat × Nat) :=
  let near := (List.range 16).flatMap fun k => [op - k, op + k]
  near.findSome? fun o =>
    match s.power.learned.find? fun e => e.1 == (p, t, o) with
    | some e =>
      let f := fun k => (railCv.getD k 0) ^ 2 * beatRate.getD k 0
      some (if o = op then e.2.1 else e.2.1 * f op / f o, e.2.2)
    | none => none

/-- Progress per second of a figure, in relative units. -/
def progress (s : State) (p t op : Nat) : Option Nat := (figure s p t op).map fun x => x.2 * beatRate.getD op 0

/-- The knee (R438): the lowest point whose learned progress per second is at least (1 - KNEE / 1,024) times that of the requested
point. -/
def kneeOp (s : State) (p t req op : Nat) : Nat :=
  match progress s p t req with
  | none => op
  | some r =>
    let ok := fun k => match progress s p t k with
      | some v => decide ((1024 - s.get F.pwrCtrlKnee) * r ≤ 1024 * v)
      | none => false
    Nat.min op (((List.range (op + 1)).find? ok).getD op)

/-- A die's point before the limit (R439), and whether this tick is a probe (R438). -/
def wantOp (s : State) (d : Nat) : Nat × Bool :=
  let p := s.partOfDie d
  let x := s.power
  let req := requested s d
  let op := Nat.min req (Nat.min (tget x.ceilT d 15) (tget x.ceilR d 15))
  if partPower s p = 1 then (0, false)
  else match dieWish s d with
    | some (t, _) =>
      if s.flag F.pwrPhaseLearn p t then
        let k := kneeOp s p t req op
        if 100 ≤ tget x.unsampled (p, t) 0 ∧ k ≠ 0 then (k - 1, true) else (k, false)
      else (op, false)
    | none => (op, false)

/-! ### The estimate (R424, R439, R449) -/

/-- The loss of main conversion at an output, and of standby conversion (R424), in milliwatts, rounded down. -/
def mainLoss (p : Nat) : Nat := 8000 + 45 * p / 1000 + 15 * p * p / 1000000000
def standbyLoss (p : Nat) : Nat := 2500 + 15 * p / 100

/-- The output whose sum with its loss is an input power, in milliwatts. -/
def outputOf (loss : Nat → Nat) (mw : Nat) : Nat :=
  (List.range 24).reverse.foldl (fun p b => if p + 2 ^ b + loss (p + 2 ^ b) ≤ mw then p + 2 ^ b else p) 0

/-- Core-rail power of a die at a point, in milliwatts: the learned figure of its phase, the retention share of a folded die. Without a
figure it is open (log 9). -/
def diePower (s : State) (n d op : Nat) : Nat :=
  if folded s (s.partOfDie d) then 3000
  else match (dieWish s d).bind fun w => figure s (s.partOfDie d) w.1 op with
    | some x => 100 * x.1
    | none => Config.freeNat (n + d) % 2 ^ 18

/-- Power of the lanes that are up (R342, R366), in milliwatts. -/
def lanePower (s : State) : Nat :=
  ((List.range 6).map fun g => ((List.range 8).filter fun b => (s.get F.fabGpStatusLanesUp g).testBit b).length *
    (if s.flag F.fabGpStatusLpi g then 500 else 2000)).sum

/-- The raw estimate of the converted output at a choice of points, in milliwatts: dies, lanes, hub, and the tiers, whose traffic is open
(log 9). -/
def rawPower (s : State) (n : Nat) (ops : List Nat) : Nat :=
  ((List.range 4).map fun d => diePower s n d (ops.getD d 0)).sum + lanePower s + 40000 + Config.freeNat (n + 4) % 2 ^ 20

/-- A power multiplied by the calibration factor k, an FP32 number between 0.8 and 1.25 (R449). -/
def calibrated (k mw : Nat) : Nat := mw * (2 ^ 23 + k % 2 ^ 23) / 2 ^ (150 - k / 2 ^ 23)

/-- The estimate of input power of R439, in milliwatts. -/
def estimate (s : State) (n : Nat) (ops : List Nat) : Nat :=
  let p := calibrated (s.get F.pwrCalK) (rawPower s n ops)
  p + mainLoss p

/-- Loss of progress per watt saved by one point less, weighted (R439), as a fraction; where nothing is learned for the phase it is
open (log 9). -/
def lossRate (s : State) (n d op : Nat) : Int × Nat :=
  let p := s.partOfDie d
  let w := Nat.max 1 (partCtl s F.pwrPartWeight p)
  match dieWish s d with
  | some (t, _) =>
    (match figure s p t op, figure s p t (op - 1), progress s p t op, progress s p t (op - 1) with
    | some a, some b, some pa, some pb => (w * ((pa : Int) - pb), Nat.max 1 (a.1 - b.1))
    | _, _, _, _ => (Config.freeNat (n + d), 1))
  | none => (Config.freeNat (n + d), 1)

def setAt (l : List Nat) (i v : Nat) : List Nat := l.zipIdx.map fun e => if e.2 = i then v else e.1

/-- Points lowered until the estimate meets the target, in milliwatts, or every die that is not folded is at OP_0 (R439); ties go to the
lowest die number. -/
def lowerOps (s : State) (target : Nat) : Nat → Nat → List Nat → List Nat × Nat
  | 0, n, ops => (ops, n)
  | fuel + 1, n, ops =>
    if estimate s n ops ≤ target then (ops, n)
    else
      let cand := (List.range 4).filter fun d => decide (ops.getD d 0 ≠ 0) && !folded s (s.partOfDie d)
      let best := cand.foldl (fun b d =>
        let r := lossRate s (n + 1) d (ops.getD d 0)
        match b with
        | some (_, q) => if r.1 * (q.2 : Int) < q.1 * (r.2 : Int) then some (d, r) else b
        | none => some (d, r)) (none : Option (Nat × Int × Nat))
      match best with
      | none => (ops, n)
      | some (d, _) => lowerOps s target fuel (n + 5) (setAt ops d (ops.getD d 0 - 1))

/-! ### Reasons (R447, R448) -/

/-- The reasons that hold a die now. -/
def dieReasons (s : State) (d : Nat) : List Bool :=
  let p := s.partOfDie d
  let x := s.power
  let b := s.get F.pwrLimitsBinding
  let fold := folded s p
  let low := x.lowered.contains d || (!fold && (x.dutyOn || x.shedHold)) || (fold && x.causes.contains .capBelow)
  let ask := dieAsk s d
  let req := requested s d
  [b == 1 && low,
   decide (tget x.ceilT d 15 < req) || (tget x.hotHalf d 0 != 0) || (fold && x.causes.contains .thermal),
   (b == 2 && low) || (fold && x.causes.contains .supply),
   b == 3 && low,
   decide (tget x.ceilR d 15 < req),
   decide (req < ask) || (fold && partCtl s F.pwrPartFoldReq p == 1),
   partPower s p == 1 && parked s p]

/-- PWR_THR_NOW_p; without main power no die runs. -/
def partReasons (s : State) (p : Nat) : Nat :=
  if asleep s then 0 else ((s.diesOf p).map (dieReasons s)).foldl (fun m l => m ||| (l.zipIdx.foldl (fun v e => if e.1 then v ||| 2 ^ e.2 else v) 0)) 0

/-- The counter that a microsecond of the present reasons adds to, in the order of R448. -/
def firstReason (m : Nat) : Option Nat := [3, 2, 0, 1, 4, 5, 6].find? fun r => m.testBit r

/-! ### The control tick (R439) -/

/-- Thermal and rail ceilings move once per tick (R436, R446). -/
def ceilTick (s : State) (x : PowerCtl) (d : Nat) : PowerCtl :=
  let t := s.get F.pwrTempT d
  let hs := (List.range 8).map fun k => s.get F.pwrHbmTempT (8 * d + k)
  let tt := 8 * s.get F.pwrThermalTTarget
  let hl := 8 * s.get F.pwrThermalHbmLimit
  let tooHot := decide (tt < t) || hs.any fun h => decide (hl < h)
  let under := decide (t + 16 ≤ tt) && hs.all fun h => decide (h + 16 ≤ hl)
  let c := tget x.ceilT d 15
  let k := tget x.coolTicks d 0 + 1
  let hot := tget x.hotHalf d 0
  let r := tget x.ceilR d 15
  let m := tget x.railTicks d 0 + 1
  { x with
    ceilT := tset x.ceilT d (if hot ≠ 0 then 0 else if tooHot then c - 1 else if under ∧ k = 10 then Nat.min 15 (c + 1) else c)
    coolTicks := tset x.coolTicks d (if under ∧ k < 10 ∧ hot = 0 then k else 0)
    hotHalf := if hot = 0 then x.hotHalf else tset x.hotHalf d (hot + 1)
    ceilR := if m = 100 then tset x.ceilR d (Nat.min 15 (r + 1)) else x.ceilR
    railTicks := if r = 15 ∨ m = 100 then tset x.railTicks d 0 else tset x.railTicks d m }

/-- Phases of the tasks that a die has run since the last tick. -/
def diePhases (s : State) (d : Nat) : List Nat := ((dieTasks s d).map fun t => t.desc.phase) ++ tget s.power.phases d [] |>.eraseDups

/-- The phase of which the tick is a sample for a die (R437): it ran that one alone, and did not move. -/
def dieSample (s : State) (d : Nat) : Option Nat :=
  match diePhases s d with
  | [t] => if s.power.moved.contains d || s.flag F.dieOpStatusMoving d || folded s (s.partOfDie d) then none else some t
  | _ => none

/-- A die's sample moves its learned figure by one eighth (R437): its power and progress are measured, so open (log 1). -/
def learnTick (s : State) (n d : Nat) (x : PowerCtl) : PowerCtl :=
  match dieSample s d with
  | some t =>
    let p := s.partOfDie d
    let op := s.get F.dieOpStatusOpCur d
    let w := Config.freeNat n % 4096
    let g := Config.freeNat (n + 1) % 1025
    let old := (figure s p t op).getD (w, g)
    let mv := fun (a b : Nat) => ((a : Int) + ((b : Int) - a) / 8).toNat
    { x with learned := tset x.learned (p, t, op) (mv old.1 w, mv old.2 g) }
  | none => x

/-- The ticks for which each phase that ran has had no sample one point below its target (R438), counted once per tick. -/
def unsampledTick (s : State) (x : PowerCtl) : PowerCtl :=
  let ran := ((List.range 4).flatMap fun d => (diePhases s d).map fun t => (s.partOfDie d, t)).eraseDups
  let hit := fun (e : Nat × Nat) => (List.range 4).any fun d =>
    s.partOfDie d == e.1 && dieSample s d == some e.2 && s.get F.dieOpStatusOpCur d + 1 == (wantOp s d).1
  { x with unsampled := ran.foldl (fun m e => tset m e (if hit e then 0 else tget x.unsampled e 0 + 1)) x.unsampled }

/-- A new tick begins: what the control registers hold comes into force (R452), and the records of the last one start afresh. -/
def beginTick (s : State) (x : PowerCtl) : PowerCtl :=
  { x with
    moved := (List.range 4).filter fun d => s.flag F.dieOpStatusMoving d
    phases := (List.range 4).map fun d => (d, ((dieTasks s d).map fun t => t.desc.phase).eraseDups)
    tickAt := s.time
    rawN := x.rawN + 1, rawMw := x.rawMw + rawPower s s.free ((List.range 4).map fun d => s.get F.dieOpStatusOpCur d) }

/-- LIVE control fields come into force (R5, R452). -/
def takeControls (s : State) (x : PowerCtl) : PowerCtl :=
  { x with partCtl := (List.range 4).map fun p => (p, (s.reg ⟨.pwrPart, p, 0⟩).toNat), irq := (s.reg ⟨.pwrIrq, 0, 0⟩).toNat }

/-- A sum split among takers: each takes an open part of what is left (log 1); the last component is the rest. -/
def splitOpen {α : Type} (n : Nat) : Nat → List α → List (α × Nat) × Nat
  | rest, [] => ([], rest)
  | rest, x :: r =>
    let v := Config.freeNat n % (rest + 1)
    let z := splitOpen (n + 1) (rest - v) r
    ((x, v) :: z.1, z.2)

/-- Energy attributed at a tick (R450), in microjoules: a tenth of the milliwatts of its 100 microseconds. The core-rail energy of a partition's
dies goes to the queues whose tasks ran there and else to its idle share, traffic to queues, the rest of the estimate to the partitions by
their dies. How much of each queue, and what a module in STANDBY draws beside the loss of R424, is open (log 9). -/
def energyTick : Act := fun s =>
  let n := s.free
  let ops := (List.range 4).map fun d => s.get F.dieOpStatusOpCur d
  let k := s.get F.pwrCalK
  let off := asleep s
  let ps := List.range s.nParts
  let core := fun (p : Nat) => if off then 0 else ((s.diesOf p).map fun d => calibrated k (diePower s n d (ops.getD d 0)) / 10).sum
  let qs := fun (p : Nat) => (List.range 64).filter fun q => s.power.ran.contains (p, q) || s.tasks.any fun t => t.p == p && t.q == q
  let low := Config.freeNat n % 2 ^ 20
  let total := if off then (low + standbyLoss low) / 10 else estimate s n ops / 10
  let rails := (ps.map core).sum
  let traffic := splitOpen (n + 5) (if off then 0 else calibrated k (Config.freeNat (n + 4) % 2 ^ 20) / 10) (ps.flatMap fun p => (qs p).map fun q => (p, q))
  let moved := fun (p q : Nat) => ((traffic.1.filter fun e => e.1 == (p, q)).map (·.2)).sum
  let shared := (total - rails - (traffic.1.map (·.2)).sum) / s.nParts
  let split := fun (p : Nat) => splitOpen (n + 300 + 64 * p) (core p) (qs p)
  let part := fun (p : Nat) => core p + ((qs p).map (moved p)).sum + shared
  (ps.flatMap fun p =>
    ((split p).1.map fun e => Upd.add ⟨.telEnergyQ, p, e.1⟩ (e.2 + moved p e.1)) ++
      [.add ⟨.telEnergyIdle, p, 0⟩ (split p).2, .add ⟨.telEnergyPart, p, 0⟩ (part p)]) ++
    [.add ⟨.telEnergyModule, 0, 0⟩ ((ps.map part).sum), .draw 1024, .power fun x => { x with ran := [] }]

/-- Partitions in GRAZE that are no longer parked (R440). -/
def grazeOver (s : State) : List Nat := (List.range s.nParts).filter fun p => partPower s p == 1 && !parked s p

/-- The module fold of a limit below the fold power begins and ends (R442, R444). -/
def capFoldTick : Act := fun s =>
  let e := (effLimit s).1
  let w := s.get F.pwrFoldFoldW
  let on := s.power.causes.contains .capBelow
  Act.all [
    if e < w ∧ s.power.below = true ∧ on = false then
      Act.all [foldCause .capBelow true, pwrLevel F.pwrStatusCapBelowFold true, logUnit 0x6005 4 0 none none]
    else if w + 20 ≤ e ∧ s.power.above = true ∧ on = true then
      Act.all [foldCause .capBelow false, pwrLevel F.pwrStatusCapBelowFold false]
    else Act.skip,
    Act.of [.power fun x => { x with below := decide (e < w), above := decide (w + 20 ≤ e) }]] s

/-- The ramp and the target of a tick (R431, R439), in tenths of a watt. While the module is folded the limit does not rise. -/
def rampTick : Act := fun s =>
  let e := 10 * (effLimit s).1
  let r := s.get F.pwrCtrlRampWPerMs
  let ramp := if allFolded s then Nat.min e s.power.rampDw else if r = 0 then e else Nat.min e (s.power.rampDw + r)
  [.power fun x => { x with rampDw := ramp, targetDw := ramp - 10 * s.get F.pwrCtrlMarginW }]

/-- The operating points and the duty (R439). Dies of a folded partition keep their retention voltage. Where the shed pin holds issue and no
duty is needed, issue resumes (R435). -/
def opsTick : Act := fun s =>
  let want := (List.range 4).map fun d => if folded s (s.partOfDie d) then (opTgt s d, false) else wantOp s d
  let target := 100 * s.power.targetDw
  let (ops, n) := lowerOps s target 64 s.free (want.map (·.1))
  let duty := decide (target < estimate s n ops) || s.get F.pwrLimitsBinding == 3
  let asks := (List.range 4).map fun d => dieAsk s d
  Act.all [
    Act.each (List.range 4) fun d => if folded s (s.partOfDie d) then Act.skip else setOp d (ops.getD d 0),
    Act.of [.fld F.pwrFoldOp0W 0 0 (Nat.min 2047 (estimate s (n + 5) [0, 0, 0, 0] / 1000)), .draw 1024,
      .power fun x => { x with
        lowered := (List.range 4).filter fun d => decide (ops.getD d 0 < (want.getD d (0, false)).1)
        lastReq := (List.range 4).map fun d => (d, asks.getD d 0)
        unsampled := x.unsampled.map fun e => if (List.range 4).any (fun d => (want.getD d (0, false)).2 && s.partOfDie d == e.1.1 && (dieWish s d).any fun y => y.1 == e.1.2) then (e.1, 0) else e
        dutyOn := duty, offPart := x.offPart && duty, shedHold := x.shedHold && duty }],
    if duty then Act.skip else Act.set F.pwrFoldDuty 0 0 64] s

/-- Partitions that are no longer parked leave GRAZE, and their dies take their targets (R426, R440). -/
def grazeExit : Act := fun s =>
  match grazeOver s with
  | [] => []
  | ps => ((Act.of (ps.map fun p => .fld (pwrPartFld p) 0 0 0)).seq opsTick) s

/-- CONTROL_TICK. -/
def controlTickAct : Act := fun s =>
  if s.power.off then []
  else if asleep s then Act.all [fun s => [.power (takeControls s)], energyTick] s
  else Act.all [
    fun s => [.power (takeControls s)],
    rampTick,
    fun s => (grazeOver s).map fun p => .fld (pwrPartFld p) 0 0 0,
    Act.of [.power fun x => (List.range 4).foldl (ceilTick s) x],
    fun s => [.power fun x => unsampledTick s ((List.range 4).foldl (fun y d => learnTick s (s.free + 2 * d) d y) x), .draw 8],
    fun s => [.power (beginTick s), .draw 5],
    capFoldTick,
    updFold,
    opsTick,
    fun s => if allFolded s then [.fld F.pwrFoldFoldW 0 0 (Config.freeNat s.free % 2048), .draw 1] else [],
    energyTick] s

/-- RAIL_CURRENT (R436). -/
def railCurrentAct (d : Nat) : Act := fun s =>
  if asleep s then []
  else
    let c := tget s.power.ceilR d 15 - 1
    Act.all [
      Act.of [.power fun x => { x with ceilR := tset x.ceilR d c, railTicks := tset x.railTicks d 0 }],
      setOp d (Nat.min c (opTgt s d))] s

/-- DIE_IDLE (R436). -/
def dieIdleAct (d : Nat) : Act := fun s =>
  if !(dieTasks s d).isEmpty || s.power.idle.contains d then [] else [.power fun x => { x with idle := d :: x.idle }]

/-- GRAZE_ENTRY (R440). -/
def grazeEntryAct (p : Nat) : Act := fun s =>
  if s.partExists p && partPower s p == 0 && !asleep s && partCtl s F.pwrPartGrazeEn p == 1 && parked s p then
    Act.all [Act.set (pwrPartFld p) 0 0 1, Act.each (s.diesOf p) fun d => setOp d 0] s
  else []

/-! ### Fold-duty and the shed pin (R435, R441) -/

/-- D of R441 at a target in tenths of a watt. -/
def dutyFor (s : State) : Nat :=
  let o := 10 * s.get F.pwrFoldOp0W
  let f := 10 * s.get F.pwrFoldFoldW
  (((List.range 65).reverse.find? fun d => decide (d * o + (64 - d) * f ≤ 64 * s.power.targetDw))).getD 0

/-- FOLD_DUTY_PERIOD. Issue that the shed pin held resumes with it, under a duty or without (R435). -/
def dutyPeriodAct : Act := fun s =>
  if asleep s then []
  else if !s.power.dutyOn then [.power fun x => { x with shedHold := false }]
  else
    let d := dutyFor s
    [.fld F.pwrFoldDuty 0 0 d, .power fun x => { x with offPart := decide (d = 0), shedHold := false }]

/-- FOLD_DUTY_OFF. -/
def dutyOffAct : Act := fun s =>
  if s.power.dutyOn && decide (s.get F.pwrFoldDuty < 64) && !asleep s then [.power fun x => { x with offPart := true }] else []

/-- SHED_ASSERT (R435). In FOLD nothing changes but the limit. -/
def shedAssertAct : Act := fun s =>
  if s.flag F.pwrShedPin || s.power.off then []
  else Act.all [
    Act.set F.pwrShedPin 0 0 1,
    updLimits,
    pwrLevel F.pwrStatusShedding true,
    fun s => if asleep s || (List.range s.nParts).all (folded s) then []
      else Act.all [
        Act.of [.power fun x => { x with shedHold := true, dutyOn := true, targetDw := Nat.min x.targetDw (x.rampDw - 10 * s.get F.pwrCtrlMarginW) }],
        Act.each (List.range 4) fun d => if folded s (s.partOfDie d) then Act.skip else setOp d 0] s] s

/-- SHED_RELEASE (R435). -/
def shedReleaseAct : Act := fun s =>
  if !s.flag F.pwrShedPin then []
  else Act.all [
    Act.set F.pwrShedPin 0 0 0,
    updLimits,
    pwrLevel F.pwrStatusShedding false,
    Act.of [.power fun x => { x with shedHold := false }]] s

/-! ### Caps (R428, R430, R432) -/

/-- A limit as it is written: clamped, with CLAMPED where it was (R428, R435). -/
def capPut (f : Fld) (w : Nat) : Act :=
  Act.all [Act.set f 0 0 (clampW w), if clampW w ≠ w then pwrEvent F.pwrStatusClamped else Act.skip, updLimits]

/-! ### STANDBY and OFF (R425-R427) -/

/-- Main power is removed: what only STANDBY keeps of R425 stays. IDE keys and sessions go (R518), the ports retrain to 2.5 GT/s x1
(R472). -/
def powerDown : Act := fun s =>
  Act.all [
    Act.of [.tasks fun _ => [], .reqs fun _ => [], .stores fun _ => [], .clearMem],
    Act.of ((List.range 144).map fun c => .core c fun _ => {}),
    Act.of ((List.range 4).flatMap fun d => [.die d fun _ => {}, .resetReg ⟨.dieOpStatus, d, 0⟩, .resetReg ⟨.dieRingStatus, d, 0⟩]),
    Act.of ((List.range 6).flatMap fun g => portOff g ++ [.port g fun _ => {}]),
    Act.of ((List.range 4).map fun p => .part p fun y => { tags := y.tags }),
    Act.of ([Fn.pf0, .pf1].map fun f => .fn f fun y => { y with prq := [], invs := [] }),
    Act.of [.sec fun x => { x with sessions := [], ide := [], waiting := x.waiting.filter fun w => !w.2.isKey },
      .power fun x => { x with dutyOn := false, offPart := false, shedHold := false, lowered := [], idle := [], droop := [], ceilT := [], ceilR := [], coolTicks := [], railTicks := [], hotHalf := [], standbyPending := false },
      .fld F.pwrFoldDuty 0 0 64, .fld F.genStartupTiersReady 0 0 0],
    Act.of ((List.range 4).flatMap fun p => [.fld (pwrPartFld p) 0 0 0]),
    Act.set F.pwrStateModule 0 0 4,
    Act.of ([Fn.pf0, .pf1].flatMap fun f => if s.flag F.hostPortStatusUp f.idx then
      [.reg ⟨.hostPortStatus, f.idx, 0⟩ (BitVec.ofNat 64 (1 + 2 + 16 + 2 ^ 8 * s.get F.hostPortStatusFlit f.idx))] else [])] s

/-- What R427 applies to a partition when power goes at once: steps 6 and 7 of R470 without a vector, and FAULTED with the cause's
code. -/
def partLost (code p : Nat) : Act := fun s =>
  Act.all [
    clearWork p,
    queuesDisable p,
    Act.of [.fld F.fltPartStatusFaulted p 0 1, .fld F.fltPartStatusCode p 0 code]] s

/-- An abort in progress has nothing left to do (R470). -/
def abortsEnd : Act :=
  Act.each [Fn.pf0, .pf1] fun f => Act.when (fun s => s.flag F.hostAbortStatusBusy f.idx)
    ((Act.of [.fld F.hostAbortStatusBusy f.idx 0 0, .fld F.hostAbortStatusDone f.idx 0 1]).seq (abortVector f))

/-- STANDBY for a thermal or input cause (R423, R427, R446). -/
def standbyCause (code : Nat) : Act := fun s =>
  if s.power.off then []
  else if asleep s then logUnit code 4 0 none none s
  else Act.all [
    Act.each (List.range s.nParts) (partLost code),
    logUnit code 4 0 none none,
    powerDown,
    abortsEnd,
    runDeferred,
    Act.of [.power fun x => { x with standbyCause := true }]] s

/-- A commanded STANDBY is entered once its aborts, a settings store and a flash write are done (R427, R503, R533). -/
def tryStandby : Act := fun s =>
  if s.power.standbyPending && !s.flag F.hostAbortStatusBusy 0 && !s.flag F.hostAbortStatusBusy 1 && !s.flag F.nvsCmdStatusBusy && s.sec.job.isNone then
    (powerDown.seq (Act.of [.power fun x => { x with standbyCause := false }])) s
  else []

/-- PWR_CMD.STANDBY. -/
def standbyAct : Act := fun s =>
  if asleep s || s.power.standbyPending then []
  else Act.all [
    Act.of [.power fun x => { x with standbyPending := true }],
    Act.each [Fn.pf0, .pf1] fun f => Act.look fun s => if (s.partsOf f).isEmpty || s.flag F.hostAbortStatusBusy f.idx then Act.skip else abortEffect f,
    tryStandby] s

/-- ABORT_COMPLETE: steps 4 to 7 of R470, then what waited for them. -/
def abortCompleteAct (f : Fn) : Act := fun s =>
  if abortReady s f then Act.all [abortFinish f, runDeferred, tryStandby] s else []

/-- INPUT_LOST (R423): OFF. A store breaks off (R533), and a flash write leaves no valid image (R503). -/
def inputLostAct : Act := fun s =>
  if s.power.off then []
  else Act.all [
    storeTorn,
    if asleep s then Act.skip else powerDown,
    Act.of [.nvs fun x => { x with job := none, due := [] },
      .sec fun x => { x with job := none, flashBad := x.flashBad || x.job.isSome, trace := [], work := none },
      .power fun x => { x with off := true, lostInput := true, tripped := false, standbyCause := false, i3cAddr := none }]] s

/-! ### Supply and temperature -/

/-- An input voltage as it is noted: an excursion over a bound of R423 ends 0.5 V within it (log 50). -/
def noteInput (dv : Nat) (x : PowerCtl) : PowerCtl :=
  { x with
    inputLow := decide (dv < 640) || (x.inputLow && decide (dv < 645))
    inputHigh := decide (840 < dv) || (x.inputHigh && decide (835 < dv))
    inputLoss := x.inputLoss && !decide (585 ≤ dv ∧ dv ≤ 835)
    overvolt := x.overvolt && decide (795 < dv) }

def inputIs (dv : Nat) : List Upd := [.fld F.pwrInputVInDv 0 0 (Nat.min 1023 dv), .power (noteInput dv)]

/-- SUPPLY_UNDERVOLTAGE (R423). -/
def undervoltageAct (dv : Nat) : Act := fun s =>
  if s.power.off ∨ s.power.causes.contains .supply = true ∨ ¬ (580 ≤ dv ∧ dv < 640) then []
  else Act.all [
    Act.of (inputIs dv),
    logUnit 0x6001 4 0 none none,
    pwrEvent F.pwrStatusSupplyFault,
    foldCause .supply true] s

/-- SUPPLY_RECOVER (R423): at 64 V and the hysteresis above it. -/
def supplyRecoverAct (dv : Nat) : Act := fun s =>
  if s.power.off ∨ dv < 645 then []
  else Act.all [Act.of (inputIs dv), foldCause .supply false] s

/-- OVERVOLTAGE (R423): once per excursion. -/
def overvoltageAct (dv : Nat) : Act := fun s =>
  if s.power.off ∨ s.power.overvolt ∨ ¬ (800 < dv ∧ dv ≤ 840) then []
  else Act.all [Act.of (inputIs dv ++ [.power fun x => { x with overvolt := true }]), logUnit 0x6002 4 0 none none] s

/-- SUPPLY_LOSS (R423): once per excursion. -/
def supplyLossAct (dv : Nat) : Act := fun s =>
  if s.power.off ∨ s.power.inputLoss ∨ (580 ≤ dv ∧ dv ≤ 840) then []
  else Act.all [
    Act.of (inputIs dv ++ [.power fun x => { x with inputLoss := true }]),
    pwrEvent F.pwrStatusSupplyFault,
    standbyCause 0x6008] s

/-- THERMAL_SAMPLE (R446): temperatures in units of 0.125 degrees. -/
def thermalSampleAct (dies : List Nat) (hub : Nat) (hbm : List Nat) : Act := fun s =>
  if s.power.off then []
  else
    let hotNow := (List.range 4).filter fun d => decide (840 ≤ dies.getD d 0) && tget s.power.hotHalf d 0 == 0
    let cooled := (List.range 4).filter fun d => decide (dies.getD d 0 ≤ 824)
    let calm := (hub :: dies).all fun t => decide (t ≤ 800)
    Act.all [
      Act.of ((List.range 4).map fun d => .fld F.pwrTempT d 0 (Nat.min 4095 (dies.getD d 0))),
      Act.of ((List.range 32).map fun k => .fld F.pwrHbmTempT k 0 (Nat.min 4095 (hbm.getD k 0))),
      Act.set F.pwrTempHubT 0 0 (Nat.min 4095 hub),
      if asleep s then Act.skip
      else Act.all [
        Act.of [.power fun x => { x with
          ceilT := hotNow.foldl (fun m d => tset m d 0) x.ceilT
          hotHalf := cooled.foldl (fun m d => tset m d 0) (hotNow.foldl (fun m d => tset m d 1) x.hotHalf) }],
        if hotNow.isEmpty then Act.skip else pwrEvent F.pwrStatusThermal,
        Act.each hotNow fun d => setOp d 0,
        if calm && s.power.causes.contains .thermal then foldCause .thermal false else Act.skip]] s

/-- THERMAL_FOLD (R446). -/
def thermalFoldAct : Act := fun s =>
  if asleep s || s.power.causes.contains .thermal then []
  else Act.all [logUnit 0x6003 4 0 none none, pwrEvent F.pwrStatusThermal, foldCause .thermal true] s

/-- THERMAL_TRIP (R446, R561). -/
def thermalTripAct : Act := fun s =>
  if s.power.off || s.power.tripped then []
  else Act.all [Act.of [.power fun x => { x with tripped := true }], pwrEvent F.pwrStatusThermal, standbyCause 0x6004] s

/-! ### Measurement (R433, R449) -/

def meanW (l : List Nat) : Nat := if l.isEmpty then 0 else Nat.min 2047 (l.sum / l.length / 1000)

/-- The filter of R433: a first-order low pass with a time constant of 1 ms over samples 10 microseconds apart, so one hundredth of the
difference per sample, beginning at the first sample (log 51). -/
def filterStep (first : Bool) (f v : Nat) : Nat := if first then v * 2 ^ 16 else ((f : Int) + ((v * 2 ^ 16 : Nat) - (f : Int)) / 100).toNat

/-- ENERGY_SAMPLE: voltage in tenths of a volt, current in hundredths of an ampere, so their product is in milliwatts. -/
def energySampleAct (v i : Nat) : Act := fun s =>
  if s.power.off then []
  else
    let mw := v * i
    let uj := s.power.ujRem + mw
    let smp := (mw :: s.power.samples).take 100
    Act.all [
      Act.of (inputIs v),
      Act.of [.fld F.pwrInputIInCa 0 0 (Nat.min 4095 i), .add ⟨.pwrInputUj, 0, 0⟩ (uj / 100),
        .fld F.pwrInputWAvg1msW 0 0 (meanW smp), .fld F.pwrInputWAvg100usW 0 0 (meanW (smp.take 10)),
        .power fun x => { x with ujRem := uj % 100, samples := smp, vFilt := filterStep x.samples.isEmpty x.vFilt v, calN := x.calN + 1, calMw := x.calMw + mw }],
      updLimits] s

/-- The new calibration factor (R449): one eighth of the way to the ratio of the measured output, input less the loss of R424, to the raw
estimate, both averaged since the last calibration, within 0.8 and 1.25. Without a raw estimate to compare with the ratio is open
(log 9). -/
def calNext (s : State) : Nat :=
  let x := s.power
  let k := s.get F.pwrCalK
  let out := outputOf (if asleep s then standbyLoss else mainLoss) (x.calMw / Nat.max 1 x.calN)
  let next := if x.calN = 0 ∨ x.rawMw = 0 then Config.freeNat s.free
    else
      let ratio : Num := if out * x.rawN = 0 then .zero false else .fin false (out * x.rawN) x.rawMw 0
      f32Bits (Num.add (f32 k) (Num.mul (.dyadic false 1 (-3)) (Num.sub ratio (f32 k))))
  Nat.max 0x3F4CCCCD (Nat.min 0x3FA00000 next)

/-- CALIBRATION (R449). -/
def calibrationAct : Act := fun s =>
  if s.power.off then []
  else
    let k := calNext s
    Act.all [
      Act.of [.reg ⟨.pwrCal, 0, 0⟩ (BitVec.ofNat 64 k), .draw 1, .power fun x => { x with calN := 0, calMw := 0, rawN := 0, rawMw := 0 }],
      if k = 0x3F4CCCCD ∨ k = 0x3FA00000 then (pwrEvent F.pwrStatusCalRange).seq (logUnit 0x6006 4 0 none none) else Act.skip] s

/-! ### The I3C target (R434) -/

/-- The hottest die junction. -/
def hottest (s : State) : Nat := ((List.range 4).map fun d => s.get F.pwrTempT d).foldl Nat.max 0

/-- Bytes of the I3C offset map; offsets that the map does not name are open (log 1). -/
def i3cByte (s : State) (latch k : Nat) : Byte :=
  let st := s.get F.pwrStateModule + 16 * s.get F.pwrLimitsBinding + 256 * i3cFlags s
  let w16 := fun (v k : Nat) => (bytesOf 2 v).getD k 0
  if k < 2 then w16 (s.get F.pwrLimitsI3cCapW) k
  else if k < 4 then w16 (s.get F.pwrLimitsEffectiveW) (k - 2)
  else if k < 6 then w16 (s.get F.pwrInputWAvg1msW) (k - 4)
  else if k < 8 then w16 st (k - 6)
  else if k < 10 then w16 (hottest s) (k - 8)
  else if 0x10 ≤ k ∧ k < 0x18 then (bytesOf 8 latch).getD (k - 0x10) 0
  else Config.freeByte s.free k

/-- The target answers private transfers: in every state but OFF, once its dynamic address has been assigned (R434). -/
def i3cOn (s : State) : Bool := !s.power.off && s.power.i3cAddr.isSome

/-- I3C_READ. -/
def i3cReadAct (off len : Nat) : Act := fun s =>
  if !i3cOn s then []
  else
    let latch := if off ≤ 0x10 ∧ 0x10 < off + len then (s.reg ⟨.pwrInputUj, 0, 0⟩).toNat else s.power.i3cLatch
    [.emit (.i3c ((List.range len).map fun k => i3cByte s latch (off + k))), .power fun x => { x with i3cLatch := latch }, .draw 1]

/-- I3C_CAP_WRITE. -/
def i3cCapAct (w : Nat) : Act := fun s => if i3cOn s then capPut F.pwrLimitsI3cCapW w s else []

/-- I3C_ADDRESS_ASSIGN. -/
def i3cAssignAct (a : Nat) : Act := fun s => if s.power.off then [] else [.power fun x => { x with i3cAddr := some a }]

/-! ### PMBus (R563) -/

/-- A value num / den in LINEAR11: the smallest exponent at which the rounded-down mantissa fits. -/
def linear11 (num den : Nat) : Nat :=
  let exps : List Int := (List.range 32).map fun k => Int.ofNat k - 16
  let mant := fun (e : Int) => if e < 0 then num * 2 ^ (-e).toNat / den else num / (den * 2 ^ e.toNat)
  match exps.find? fun e => decide (mant e ≤ 1023) with
  | some e => (if e < 0 then 32 - (-e).toNat else e.toNat) * 2048 + mant e
  | none => 15 * 2048 + 1023

/-- STATUS_WORD (R563): OFF is bit 6, VIN_UV bit 3, TEMPERATURE bit 2 and CML bit 1 of the low byte, by PMBus. -/
def statusWord (s : State) : Nat :=
  (if s.get F.pwrStateModule = 4 then 64 else 0) + (if s.get F.pwrInputVInDv < 640 then 8 else 0) +
    (if s.flag F.pwrStatusThermal then 4 else 0) + (if s.power.cml then 2 else 0)

/-- A read of a PMBus command answers its bytes, low byte first. -/
def pmbusRead (bs : State → List Byte) : Act := fun s => if s.power.off then [] else [.emit (.pmbus (bs s))]

def ascii (t : String) : List Byte := t.toList.map fun c => BitVec.ofNat 8 c.toNat

/-- Any other command, and any write but CLEAR_FAULTS (R563). -/
def pmbusOther (code : Nat) (write : Bool) : Act := fun s =>
  let known := [0x79, 0x88, 0x89, 0x8D, 0x97, 0x98, 0x99, 0x9A].contains code
  if s.power.off || (known && !write) || code == 0x03 then [] else [.power fun x => { x with cml := true }]

/-! ### Pins (R558, R561) -/

/-- ALERT_N is driven low. -/
def alertLow (s : State) : Bool :=
  s.flag F.pwrStatusCapBelowFold || s.flag F.pwrStatusThermal || s.flag F.fltStatusModuleFault || (s.get F.pwrStateModule == 4 && s.power.standbyCause)

/-- THERM_TRIP_N is driven low. -/
def thermTripLow (s : State) : Bool := s.power.tripped

/-- MAIN_OK is high: main conversion is up. -/
def mainOk (s : State) : Bool := decide (3 ≤ s.get F.genStartupStage) && s.get F.genStartupStage != 15 && !asleep s

/-- A die's operating point move ends (R33). -/
def execOpMoveComplete (d : DieIx) (s : State) : Host.Outcome State Fault Refusal := perform (opMoveCompleteAct d) s
/-- A rail droops (R35). -/
def execDroopEventStart (d : DieIx) (depthMv : Nat) (s : State) : Host.Outcome State Fault Refusal := perform (droopStartAct d depthMv) s
/-- A droop ends (R35). -/
def execDroopEventEnd (d : DieIx) (s : State) : Host.Outcome State Fault Refusal := perform (droopEndAct d) s
/-- The rack manager writes the I3C cap (R434). -/
def execI3cCapWrite (watts : BitVec 16) (s : State) : Host.Outcome State Fault Refusal := perform (i3cCapAct watts.toNat) s
/-- The rack manager reads (R434). -/
def execI3cRead (off len : Nat) (s : State) : Host.Outcome State Fault Refusal := perform (i3cReadAct off len) s
/-- The I3C controller assigns the target's dynamic address (R434). -/
def execI3cAddressAssign (addr : BitVec 7) (s : State) : Host.Outcome State Fault Refusal := perform (i3cAssignAct addr.toNat) s
/-- The control tick (R439). -/
def execControlTick  (s : State) : Host.Outcome State Fault Refusal := perform (controlTickAct) s
/-- A fold-duty period begins (R441). -/
def execFoldDutyPeriod  (s : State) : Host.Outcome State Fault Refusal := perform (dutyPeriodAct) s
/-- The off part of a fold-duty period begins (R441). -/
def execFoldDutyOff  (s : State) : Host.Outcome State Fault Refusal := perform (dutyOffAct) s
/-- FAST_SHED_N is asserted (R435). -/
def execShedAssert  (s : State) : Host.Outcome State Fault Refusal := perform (shedAssertAct) s
/-- FAST_SHED_N is released (R435). -/
def execShedRelease  (s : State) : Host.Outcome State Fault Refusal := perform (shedReleaseAct) s
/-- The input falls below 64 V (R423). -/
def execSupplyUndervoltage (dv : Nat) (s : State) : Host.Outcome State Fault Refusal := perform (undervoltageAct dv) s
/-- The input is back at 64 V or more (R423). -/
def execSupplyRecover (dv : Nat) (s : State) : Host.Outcome State Fault Refusal := perform (supplyRecoverAct dv) s
/-- The input exceeds 80 V (R423). -/
def execOvervoltage (dv : Nat) (s : State) : Host.Outcome State Fault Refusal := perform (overvoltageAct dv) s
/-- The input is below 58 V or above 84 V (R423). -/
def execSupplyLoss (dv : Nat) (s : State) : Host.Outcome State Fault Refusal := perform (supplyLossAct dv) s
/-- The input is lost (R423). -/
def execInputLost  (s : State) : Host.Outcome State Fault Refusal := perform (inputLostAct) s
/-- Temperatures are sampled (R446). -/
def execThermalSample (dies : List Nat) (hub : Nat) (hbm : List Nat) (s : State) : Host.Outcome State Fault Refusal := perform (thermalSampleAct dies hub hbm) s
/-- A thermal cause folds the module (R446). -/
def execThermalFold  (s : State) : Host.Outcome State Fault Refusal := perform (thermalFoldAct) s
/-- The hardware trip at 120 degrees (R446). -/
def execThermalTrip  (s : State) : Host.Outcome State Fault Refusal := perform (thermalTripAct) s
/-- A rail exceeds its current limit (R436). -/
def execRailCurrent (d : DieIx) (s : State) : Host.Outcome State Fault Refusal := perform (railCurrentAct d) s
/-- A die has run no task for 100 microseconds (R436). -/
def execDieIdle (d : DieIx) (s : State) : Host.Outcome State Fault Refusal := perform (dieIdleAct d) s
/-- A parked partition enters GRAZE (R440). -/
def execGrazeEntry (p : PartIx) (s : State) : Host.Outcome State Fault Refusal := perform (grazeEntryAct p) s
/-- The input is sampled (R449). -/
def execEnergySample (vDv iCa : Nat) (s : State) : Host.Outcome State Fault Refusal := perform (energySampleAct vDv iCa) s
/-- The calibration factor is adjusted (R449). -/
def execCalibration  (s : State) : Host.Outcome State Fault Refusal := perform (calibrationAct) s
/-- An abort ends (R470). -/
def execAbortComplete (f : Fn) (s : State) : Host.Outcome State Fault Refusal := perform (abortCompleteAct f) s
/-- PMBus CLEAR_FAULTS (R563). -/
def execClearFaults  (s : State) : Host.Outcome State Fault Refusal := perform (fun s => if s.power.off then [] else [.power fun x => { x with cml := false }]) s
/-- PMBus STATUS_WORD (R563). -/
def execStatusWord  (s : State) : Host.Outcome State Fault Refusal := perform (pmbusRead fun s => bytesOf 2 (statusWord s)) s
/-- PMBus READ_VIN in volts (R563). -/
def execReadVin  (s : State) : Host.Outcome State Fault Refusal := perform (pmbusRead fun s => bytesOf 2 (linear11 (s.get F.pwrInputVInDv) 10)) s
/-- PMBus READ_IIN in amperes (R563). -/
def execReadIin  (s : State) : Host.Outcome State Fault Refusal := perform (pmbusRead fun s => bytesOf 2 (linear11 (s.get F.pwrInputIInCa) 100)) s
/-- PMBus READ_TEMPERATURE_1 in degrees Celsius (R563). -/
def execReadTemperature1  (s : State) : Host.Outcome State Fault Refusal := perform (pmbusRead fun s => bytesOf 2 (linear11 (hottest s) 8)) s
/-- PMBus READ_PIN in watts (R563). -/
def execReadPin  (s : State) : Host.Outcome State Fault Refusal := perform (pmbusRead fun s => bytesOf 2 (linear11 (s.get F.pwrInputWAvg1msW) 1)) s
/-- PMBus PMBUS_REVISION (R563). -/
def execPmbusRevision  (s : State) : Host.Outcome State Fault Refusal := perform (pmbusRead fun _ => [0x33]) s
/-- PMBus MFR_ID (R563). -/
def execMfrId  (s : State) : Host.Outcome State Fault Refusal := perform (pmbusRead fun _ => ascii "LEMRAM") s
/-- PMBus MFR_MODEL (R563). -/
def execMfrModel  (s : State) : Host.Outcome State Fault Refusal := perform (pmbusRead fun _ => ascii "TSG-3272") s
/-- Any other PMBus command, and a write of one that only reads (R563). -/
def execPmbusOtherCommand (code : Byte) (write : Bool) (s : State) : Host.Outcome State Fault Refusal := perform (pmbusOther code.toNat write) s

end Sys2Proof.Machine
end

