-- ==== Sys2Proof/Machine/Security.lean ====
section
/-! DEFINITION. The security engine: the image check (R499) and the commands of SEC_CMD (R501-R503, R510, R514), tokens and debug levels
(R511-R513, R518), core halts (R515, R517), the answers of the DOE mailboxes (R505-R509) and the test access port (R516). -/

namespace Sys2Proof.Machine

/-! ### Firmware images (R498, R499) -/

/-- Byte k of a staged or stored image; bytes never written are 0. -/
def imgByte (cells : List Host.Cell) (k : Nat) : Byte := (cellGet cells k).getD 0

/-- The image in flash (R503). -/
def Sec.flashImg (x : Sec) : Nat → Byte :=
  match x.flash with
  | some c => imgByte c
  | none => Config.flashByte

def imgBytes (img : Nat → Byte) (o n : Nat) : List Byte := (List.range n).map fun k => img (o + k)
def imgNat (img : Nat → Byte) (o n : Nat) : Nat := natOf (imgBytes img o n)
def hashBytes (h : BitVec 384) : List Byte := bytesOf 48 h.toNat

/-- Ranges of the header that hold 0 (R498). -/
def zeroRanges : List (Nat × Nat) := [(0xD0, 0x30), (0x160, 0xA0), (0xA00, 0x3600)]

/-- The SVN of an image. -/
def imgSvn (img : Nat → Byte) : Nat := imgNat img 0x008 4
def imgLength (img : Nat → Byte) : Nat := imgNat img 0x00C 4

/-- The first condition of R499 that fails: 2 AUTH or 3 ROLLBACK; 1 where all hold. `len` is the length of a staged image. -/
def imgResult (img : Nat → Byte) (len : Option Nat) (svnFuse : Nat) : Nat :=
  let n := imgLength img
  let form := decide (imgNat img 0 4 = 0x54534731 ∧ imgNat img 4 4 = 1 ∧ n % 4096 = 0 ∧ 4096 ≤ n ∧ n ≤ 4177920) &&
    zeroRanges.all (fun r => (imgBytes img r.1 r.2).all fun b => b == 0) &&
    (match len with
    | some l => l == 0x4000 + n
    | none => true)
  let ecdsa := imgBytes img 0x040 96
  let lms := imgBytes img 0x0A0 48
  let head := imgBytes img 0 0x100
  if !form then 2
  else if Config.sha384 ecdsa ≠ Config.fuseEcdsaHash ∨ Config.sha384 lms ≠ Config.fuseLmsHash then 2
  else if hashBytes (Config.sha384 (imgBytes img 0x4000 n)) ≠ imgBytes img 0x010 48 then 2
  else if !Config.ecdsaVerify ecdsa (Config.sha384 head) (imgBytes img 0x100 96) then 2
  else if !Config.lmsVerify lms head (imgBytes img 0x200 2048) then 2
  else if imgSvn img < svnFuse then 3
  else 1

/-! ### Ends of commands -/

/-- SEC_IRQ's message (R521). -/
def secIrq : Act := fun s => if s.flag F.secIrqEn then sendMsix s.mgmt (s.get F.secIrqVector) s else []

/-- A W1C bit of SEC_IRQ is set. -/
def secEvent (f : Fld) : Act := (Act.set f 0 0 1).seq secIrq

/-- A command ends with a result (R521): 1 OK, 2 AUTH, 3 ROLLBACK, 4 STATE, 5 NOT_OWNER. -/
def secEnd (result cmd : Nat) : Act :=
  (Act.of [.fld F.secCmdStatusBusy 0 0 0, .fld F.secCmdStatusDone 0 0 1, .fld F.secCmdStatusResult 0 0 result, .fld F.secCmdStatusLastCmd 0 0 cmd]).seq secIrq

def secBusy (cmd : Nat) : Act := Act.of [.fld F.secCmdStatusBusy 0 0 1, .fld F.secCmdStatusLastCmd 0 0 cmd]

/-! ### Sessions, levels and tokens -/

/-- HOST_PORT_STATUS.IDE of both ports (R475). -/
def ideShow : Act := fun s =>
  [Fn.pf0, .pf1].map fun f => .fld F.hostPortStatusIde f.idx 0 (if s.sec.ide.any fun e => e.1 == f && e.2.2 then 1 else 0)

/-- IDE keys and SPDM sessions of both ports go (R518). -/
def ideClear : Act :=
  (Act.of [.sec fun x => { x with sessions := [], ide := [], waiting := x.waiting.filter fun w => !w.2.isKey }]).seq ideShow

/-- Halted cores of a list resume (R515). -/
def coresResume (cs : List Nat) : Act := Act.of (cs.map fun c => .core c fun k => { k with halted := false, haltPending := false, step := false })

/-- The debug level as an accepted token, a relock or an expiry sets it (R513, R518). `secs` is DURATION_S. -/
def levelTo (new parts secs : Nat) : Act := fun s =>
  let old := s.get F.dbgLevelCur
  Act.all [
    Act.of [.fld F.dbgLevelCur 0 0 new, .fld F.dbgLevelMax 0 0 (Nat.max new (s.get F.dbgLevelMax)), .fld F.dbgLevelParts 0 0 parts,
      .sec fun x => { x with expiry := if secs = 0 then none else some (s.time + secs * 1000000000) }],
    if old < new ∧ 2 ≤ new then ideClear else Act.skip,
    if new ≤ 1 ∨ new < old then coresResume (List.range 144) else Act.skip,
    if new = 0 then Act.of [.sec fun x => { x with trace := [], traceCount := 0, tapIr := [] }] else Act.skip,
    updFold] s

/-- SEC_NONCE takes a fresh value from the true random source, which is open (log 1). -/
def nonceFresh : Act := fun s => [.reg ⟨.secNonce, 0, 0⟩ (BitVec.ofNat 64 (Config.freeNat s.free)), .draw 1]

/-- A field of SEC_TOKEN (R512). -/
def tok (s : State) (o n : Nat) : Nat := natOf ((s.sec.token.drop o).take n)

/-- NONCE and SIG of the token hold (R513, R514). -/
def tokenSigned (s : State) : Bool :=
  let key := if s.sec.fuseState = 0 then Config.factoryKey else s.sec.ownerKey
  decide (tok s 8 8 = (s.reg ⟨.secNonce, 0, 0⟩).toNat) && Config.ecdsaVerify key (Config.sha384 (s.sec.token.take 16)) ((s.sec.token.drop 16).take 96)

/-- The token opens a debug level (R511-R513). -/
def tokenOpens (s : State) : Bool :=
  let l := tok s 0 1
  decide (1 ≤ l ∧ l ≤ (if s.sec.fuseState = 0 then 3 else if s.sec.fuseState = 1 then 2 else 0)) &&
    (if l = 2 then decide (tok s 1 1 < 2 ^ s.nParts) else decide (tok s 1 1 = 0)) &&
    decide (tok s 2 2 = 0 ∧ tok s 6 2 = 0) && !s.flag F.secLifecycleRecovery && tokenSigned s

/-- The token serves RETIRE (R514). -/
def tokenRetires (s : State) : Bool :=
  decide (tok s 0 1 = 0xF ∧ tok s 1 7 = 0) && tokenSigned s

def tokenRefused : Act := (logUnit 0x7006 4 0 none none).seq (secEvent F.secIrqTokenRefused)

/-- DBG_CTRL.UNLOCK (R513). -/
def unlockAct (f : Fn) : Act := fun s =>
  if s.sec.evaluating then regMark f ⟨.dbgCtrl, 0, 0⟩ { busy := true } s else [.sec fun x => { x with evaluating := true }]

/-- TOKEN_EVALUATION_DONE (R513). -/
def tokenDone : Act := fun s =>
  if !s.sec.evaluating || s.power.off then []
  else Act.all [
    Act.of [.sec fun x => { x with evaluating := false }],
    if tokenOpens s then levelTo (tok s 0 1) (tok s 1 1) (tok s 4 2) else tokenRefused,
    nonceFresh] s

/-- DBG_CTRL.RELOCK (R513). -/
def relockAct : Act := levelTo 0 0 0

/-- DEBUG_EXPIRY (R518). -/
def debugExpiryAct : Act := fun s => if s.sec.expiry.isSome && !s.power.off then relockAct s else []

/-! ### The commands of SEC_CMD -/

/-- The staged image of SEC_IMG_LEN bytes is checked; a good one goes to flash (R502, R503). -/
def imageCommit (cmd : Nat) : Act := fun s =>
  let r := imgResult (imgByte s.sec.stage) (some (s.get F.secImgLenLength)) s.sec.fuseSvn
  if r = 1 then (secBusy cmd).seq (Act.of [.sec fun x => { x with job := some { image := x.stage, recovery := decide (cmd = 5) }, holder := none }]) s
  else Act.all [logUnit 0x7003 4 0 none none, secEnd r cmd, Act.of [.sec fun x => { x with holder := none }]] s

/-- FUNCTION_ABORT of every partition (R510). -/
def abortAll : Act := Act.each [Fn.pf0, .pf1] fun f => fun s =>
  if (s.partsOf f).isEmpty || s.flag F.hostAbortStatusBusy f.idx then [] else abortEffect f s

/-- A command whose fuse and erase work begins (R510). -/
def secWork (cmd : Nat) : Act := (secBusy cmd).seq (Act.of [.sec fun x => { x with work := some cmd }])

def fuseCommitAct : Act := fun s =>
  if s.get F.secLifecycleSvnImage ≤ s.sec.fuseSvn then secEnd 4 2 s else secWork 2 s

def takeOwnershipAct : Act := fun s =>
  if s.sec.fuseState ≠ 0 then secEnd 4 3 s
  else Act.all [secWork 3, Act.of [.sec fun x => { x with workKey := x.token.take 96 }], abortAll] s

def retireAct : Act := fun s =>
  if s.sec.fuseState = 2 then secEnd 4 4 s
  else if tokenRetires s then Act.all [nonceFresh, secWork 4, abortAll] s
  else Act.all [nonceFresh, tokenRefused, secEnd 2 4] s

/-- A write of CMD by function f (R502, R510, R520, R521). -/
def secCmdAct (f : Fn) (cmd : Nat) : Act := fun s =>
  let r : Reg := ⟨.secCmd, 0, 0⟩
  let recovery := s.flag F.secLifecycleRecovery
  let busy := s.flag F.secCmdStatusBusy
  if cmd = 0 ∨ 5 < cmd then []
  else if !recovery && s.mgmt != f then (regMark f r { acc := true }).seq (if busy then Act.skip else secEnd 5 cmd) s
  else if busy then regMark f r { busy := true } s
  else if s.sec.restarting || recovery != (cmd == 5) then secEnd 4 cmd s
  else match cmd with
    | 2 => fuseCommitAct s
    | 3 => takeOwnershipAct s
    | 4 => retireAct s
    | _ => imageCommit cmd s

/-- The settings memory with the last record of the FACTORY region and its COMMIT; none where the region has no space for them (R510, R527,
R531). -/
def ownerRecord (x : Nvs) (key : List Byte) : Option Nvs :=
  (storeJob x true [{ kind := 0x20, addr := 3, mask := key.length, data := key }]).map fun j =>
    { x with cells := j.writes.foldl (fun c w => nvsSet c w.1 w.2) x.cells, factory := j.after }

/-- Erases a range of the settings memory. -/
def nvsErase (x : Nvs) (lo hi : Nat) : Nvs := { x with cells := x.cells.filter fun c => decide (c.1 < lo ∨ hi ≤ c.1) }

/-- SEC_COMMAND_COMPLETE (R501, R510). TAKE_OWNERSHIP and RETIRE end after their aborts and after a settings store in progress. Where the
owner's record does not fit, TAKE_OWNERSHIP fuses nothing and its RESULT is STORE (R521). -/
def secComplete : Act := fun s =>
  let waits := s.flag F.hostAbortStatusBusy 0 || s.flag F.hostAbortStatusBusy 1 || s.flag F.nvsCmdStatusBusy || s.power.off
  match s.sec.work with
  | none => []
  | some cmd =>
    let ends := fun (result : Nat) (a : Act) => Act.all [a, Act.of [.sec fun x => { x with work := none }], secEnd result cmd, tryStandby] s
    let fin := ends 1
    if cmd = 2 then
      fin (Act.of [.sec fun x => { x with fuseSvn := s.get F.secLifecycleSvnImage }, .fld F.secLifecycleSvnFuse 0 0 (s.get F.secLifecycleSvnImage)])
    else if waits then []
    else if cmd = 3 then
      match ownerRecord s.nvs s.sec.workKey with
      | none => ends 6 (levelTo 0 0 0)
      | some v => fin (Act.all [
        Act.of [.nvs fun _ => v,
          .sec fun x => { x with ownerKey := x.workKey, fuseOwner := some (Config.sha384 x.workKey), fuseState := 1 }, .fld F.secLifecycleState 0 0 1],
        ideClear,
        levelTo 0 0 0])
    else
      fin (Act.all [
        Act.of [.nvs fun x => (nvsErase x 0x100000 0x310000).rescan, .sec fun x => { x with fuseState := 2, destroyed := true },
          .fld F.secLifecycleState 0 0 2],
        nvsShow,
        ideClear,
        levelTo 0 0 0])

/-- A write of v to the image window at an offset of it (R502); in RECOVERY the first port that writes holds it. -/
def imageWindowAct (f : Fn) (off bytes v : Nat) : Act := fun s =>
  let held := s.flag F.secLifecycleRecovery && s.sec.holder.any fun g => g != f
  if held then cfgMark f { busy := true } 0 (0x310000 + off) true s
  else
    let o := s.get F.secImgBaseBase * 0x10000 + off
    [.sec fun x => { x with stage := (bytesOf bytes v).zipIdx.foldl (fun c e => cellSet c (o + e.2) (some e.1)) x.stage
                            holder := if s.flag F.secLifecycleRecovery then some f else none }]

/-- IMAGE_WINDOW_RELEASE (R502). -/
def imageReleaseAct : Act := fun _ => [.sec fun x => { x with holder := none }]

/-! ### Core halts (R515, R517) -/

/-- HALT of core c. A partition folded by FOLD_REQ alone wakes first. -/
def haltAct (c : Nat) : Act := fun s =>
  let p := s.partOfCore c
  if folded s p then Act.all [Act.of [.core c fun k => { k with haltPending := !k.halted }], updFold] s
  else [.core c fun k => { k with halted := true, haltPending := false }]

def resumeCoreAct (c : Nat) : Act := (coresResume [c]).seq updFold

/-- STEP of a halted core. -/
def stepCoreAct (c : Nat) : Act := fun s =>
  if (s.core c).halted then [.core c fun k => { k with step := true }] else []

/-- A write of DBG_CORE_CTRL (R515, R517, R522): RESUME wins; in STANDBY a halt is refused. -/
def coreCtrlAct (f : Fn) (c : Nat) (halt resume step : Bool) : Act := fun s =>
  if asleep s then (if halt && !resume then regMark f ⟨.dbgCoreCtrl, c / 36, c % 36⟩ { busy := true } s else [])
  else if resume then resumeCoreAct c s
  else (if halt then haltAct c else Act.skip).seq (if step then stepCoreAct c else Act.skip) s

/-! ### DOE mailboxes (R459, R505-R509) -/

/-- The function's mailbox answers: its port is up, outside OFF and RECOVERY. -/
def doeUp (s : State) (f : Fn) : Bool :=
  !s.power.off && !(s.fn f).perst && !s.flag F.secLifecycleRecovery && s.flag F.hostPortStatusUp f.idx

def answer (f : Fn) (r : DoeRsp) : Act := fun _ => [.emit (.doe f r)]

/-- A mailbox request: its answer, where the mailbox answers. -/
def doeAct (f : Fn) (a : Act) : Act := fun s => if doeUp s f then a s else []

def factoryState (s : State) : Bool := decide (s.sec.fuseState = 0)

/-- GET_VERSION: 1.2 and 1.3. -/
def spdmVersionAct (f : Fn) : Act := doeAct f (answer f (.version [0x12, 0x13]))

/-- Capabilities offered (R505). -/
def capsAct (f : Fn) : Act := doeAct f fun s =>
  answer f (.capabilities (["CERT", "CHAL", "MEAS", "MEAS_FRESH", "KEY_EX", "ENCRYPT", "MAC", "HBEAT", "KEY_UPD", "CHUNK"] ++
    if factoryState s then ["CSR", "SET_CERTIFICATE"] else [])) s

def algsAct (f : Fn) : Act := doeAct f (answer f (.algorithms ["ECDSA_P384", "SHA_384", "SECP_384_R1", "AES_256_GCM", "MEAS_SHA_384"]))

/-- GET_CERTIFICATE: a portion of the slot 0 chain, whose bytes and length are open (log 1). -/
def certAct (f : Fn) (slot off len : Nat) : Act := doeAct f fun s =>
  if slot ≠ 0 then answer f (.error 1) s
  else
    let n := Nat.min len (Config.freeNat s.free)
    [.emit (.doe f (.certificate ((List.range n).map fun k => Config.certByte (off + k)) (Config.freeNat (s.free + 1)))), .draw 2]

/-- Measurement block i (R509); the layouts of blocks 3 and 4 are open (log 11). -/
def measBlock (s : State) (i : Nat) : MeasBlock :=
  { index := i
    value :=
      if i = 1 then hashBytes Config.romDigest
      else if i = 2 then hashBytes s.sec.hdrDigest
      else if i = 3 then bytesOf 1 s.sec.fuseSvn ++ bytesOf 1 (s.get F.secLifecycleSvnImage)
      else if i = 4 then List.flatten [bytesOf 1 s.sec.fuseState, bytesOf 1 (s.get F.dbgLevelCur), bytesOf 1 (s.get F.dbgLevelMax), bytesOf 1 (s.get F.dbgLevelParts)]
      else hashBytes (userDigest s.nvs) }

/-- A response with its signatures (R506). -/
def signedRsp (w : SpdmWait) (sig : DualSig) : DoeRsp :=
  match w with
  | .challenge _ => .challengeAuth sig
  | .measurements b _ => .measurements b (some sig)
  | .keyExchange x _ => .keyExchange x sig

/-- Both signatures over the transcript's hash, with the next one-time index (R506, R507). The transcript holds random values of both
ends, so its hash is open (log 11). A signed KEY_EXCHANGE_RSP opens its session. -/
def signNow (f : Fn) (w : SpdmWait) : Act := fun s =>
  let h : BitVec 384 := BitVec.ofNat 384 (Config.freeNat s.free)
  let i := s.sec.lmsNext
  [.emit (.doe f (signedRsp w { ecdsa := Config.ecdsaSign s.sec.cdiA h, index := i, lms := Config.lmsSign i h })), .draw 1,
   .sec fun x => { x with lmsNext := x.lmsNext + 1, sessions := match w with
      | .keyExchange id _ => x.sessions ++ [{ f := f, id := id }]
      | _ => x.sessions }]

/-- Indices used up, or the ring unreadable (R508, R537). -/
def lmsEmpty (s : State) : Bool := (s.reg ⟨.secLmsLeft, 0, 0⟩).toNat == 0

def lmsExhausted (f : Fn) : Act := (answer f (.error 5)).seq (logUnit 0x7005 4 0 none none)

/-- A request whose response is signed (R507, R508, R510): at once within a stored run, else after the store of the next. -/
def signedReq (f : Fn) (w : SpdmWait) : Act := fun s =>
  if s.sec.fuseState = 2 then answer f (.error 7) s
  else if lmsEmpty s then lmsExhausted f s
  else if s.sec.lmsNext < s.sec.lmsEnd ∧ s.sec.waiting = [] then signNow f w s
  else [.sec fun x => { x with waiting := x.waiting ++ [(f, w)], lmsStoring := true }]

/-- Waiting responses leave while indices of the stored run are left; the rest waits for the next store. -/
def signWaiting : List (Fn × SpdmWait) → Act
  | [] => Act.of [.sec fun x => { x with lmsStoring := false }]
  | (f, w) :: r => fun s =>
    if s.sec.lmsNext < s.sec.lmsEnd then
      ((Act.of [.sec fun x => { x with waiting := x.waiting.drop 1 }]).seq (signNow f w)).seq (signWaiting r) s
    else []

def lmsTotal : Nat := 1048576
def lmsLowMark : Nat := 65536

/-- LMS_RESERVATION_STORE (R507, R508). -/
def lmsStoreAct (ok : Bool) : Act := fun s =>
  if !s.sec.lmsStoring || s.power.off then []
  else if !ok then Act.all [
    Act.each s.sec.waiting fun w => answer w.1 (.error 5),
    Act.of [.sec fun x => { x with waiting := [], lmsStoring := false }],
    logUnit 0x7004 4 0 none none] s
  else
    let e := s.sec.lmsEnd + 64
    let left := lmsTotal - e
    let was := (s.reg ⟨.secLmsLeft, 0, 0⟩).toNat
    Act.all [
      Act.of [.sec fun x => { x with lmsEnd := e, lmsNext := Nat.max x.lmsNext (e - 64) }, .reg ⟨.secLmsLeft, 0, 0⟩ (BitVec.ofNat 64 left)],
      if left < lmsLowMark ∧ lmsLowMark ≤ was then secEvent F.secIrqLmsLow else Act.skip,
      if left = 0 then Act.all [
        Act.each s.sec.waiting fun w => lmsExhausted w.1,
        Act.of [.sec fun x => { x with waiting := [], lmsStoring := false }]]
      else signWaiting s.sec.waiting] s

def challengeAct (f : Fn) (slot : Nat) (nonce : List Byte) : Act := doeAct f
  (if slot ≠ 0 then answer f (.error 1) else signedReq f (.challenge nonce))

/-- GET_MEASUREMENTS: one block, or all with index 0xFF. -/
def measAct (f : Fn) (index : Nat) (signed : Bool) (nonce : List Byte) : Act := doeAct f fun s =>
  if ¬ (index ≤ 5 ∨ index = 0xFF) then answer f (.error 1) s
  else
    let bs := if index = 0xFF then [1, 2, 3, 4, 5].map (measBlock s) else if index = 0 then [] else [measBlock s index]
    if signed then signedReq f (.measurements bs nonce) s else answer f (.measurements bs none) s

/-- Sessions of a function, with those whose exchange waits to be signed. -/
def sessionCount (s : State) (f : Fn) : Nat :=
  (s.sec.sessions.filter fun x => x.f == f).length + (s.sec.waiting.filter fun w => w.1 == f && w.2.isKey).length

/-- KEY_EXCHANGE (R505, R506): at most 4 sessions of a function. -/
def keyExchangeAct (f : Fn) (slot : Nat) (x : List Byte) : Act := doeAct f fun s =>
  if slot ≠ 0 then answer f (.error 1) s
  else if 4 ≤ sessionCount s f then answer f (.error 0x0A) s
  else ((Act.of [.sec fun y => { y with nextSession := y.nextSession + 1 }]).seq (signedReq f (.keyExchange s.sec.nextSession x))) s

def session (s : State) (f : Fn) (id : Nat) : Option Session := s.sec.sessions.find? fun x => x.f == f && x.id == id

/-- A request inside an established session; with none it is an SPDM ERROR of code 2. -/
def inSession (f : Fn) (id : Nat) (a : Act) : Act := doeAct f fun s =>
  match session s f id with
  | some x => if x.established then a s else answer f (.error 2) s
  | none => answer f (.error 2) s

def finishAct (f : Fn) (id : Nat) : Act := doeAct f fun s =>
  match session s f id with
  | some x =>
    if x.established then answer f (.error 4) s
    else .emit (.doe f (.finish id)) :: [.sec fun y => { y with sessions := y.sessions.map fun z => if z.f = f ∧ z.id = id then { z with established := true } else z }]
  | none => answer f (.error 2) s

def heartbeatMsgAct (f : Fn) (id : Nat) : Act := inSession f id (answer f (.heartbeatAck id))
def keyUpdateAct (f : Fn) (id : Nat) : Act := inSession f id (answer f (.keyUpdateAck id))
def endSessionAct (f : Fn) (id : Nat) : Act := inSession f id fun _ =>
  [.emit (.doe f (.endSessionAck id)), .sec fun x => { x with sessions := x.sessions.filter fun z => decide (¬ (z.f = f ∧ z.id = id)) }]

/-- CSR and SET_CERTIFICATE are offered in FACTORY only (R505). -/
def csrAct (f : Fn) : Act := doeAct f fun s => answer f (if factoryState s then .csr else .error 7) s
def setCertAct (f : Fn) : Act := doeAct f fun s => answer f (if factoryState s then .setCertificate else .error 7) s

/-- DOE Discovery of the three protocols of R459, by PCI-SIG's vendor identifier. -/
def discoveryAct (f : Fn) (i : Nat) : Act := doeAct f
  (answer f (if i ≤ 2 then .discovery 1 i (if i = 2 then 0 else i + 1) else .discovery 0xFFFF 0xFF 0))

/-- IDE_KM in a session of the port's function: keys for a stream, then their use (R459, R509). Stream 0 is the link stream. -/
def ideKmAct (f : Fn) (id stream : Nat) (go : Bool) : Act := inSession f id fun s =>
  if 4 < stream then answer f (.error 1) s
  else if go && !(s.sec.ide.any fun e => e.1 == f && e.2.1 == stream) then answer f (.error 4) s
  else Act.all [
    Act.of [.sec fun x => { x with ide := (f, stream, go) :: x.ide.filter fun e => decide (¬ (e.1 = f ∧ e.2.1 = stream)) }],
    ideShow,
    answer f (.ideKm stream)] s

/-- IDE_INTEGRITY_FAILURE (R509): the TLP is lost and the stream Insecure. -/
def ideFailAct (f : Fn) (stream : Nat) : Act := fun s =>
  if s.power.off || !(s.sec.ide.contains (f, stream, true)) then []
  else Act.all [
    Act.of [.sec fun x => { x with ide := x.ide.map fun e => if e = (f, stream, true) then (f, stream, false) else e }],
    ideShow,
    logUnit 0x7007 4 f.idx none none] s

/-! ### The test access port (R516) -/

/-- TAP_SCAN. Shifted data of the instruction register and of every chain but BYPASS are open (log 1). -/
def tapAct (dr : Bool) (bits : List Bool) : Act := fun s =>
  let dark := s.get F.dbgLevelCur = 0
  let bypass := dark ∨ (s.sec.tapIr ≠ [] ∧ s.sec.tapIr.all (fun b => b) = true)
  let open_ := bits.zipIdx.map fun e => (Config.freeByte s.free e.2).getLsbD 0
  if s.power.off then []
  else if dr then [.emit (.tdo (if bypass then (false :: bits).take bits.length else open_)), .draw 1]
  else [.emit (.tdo open_), .draw 1, .sec fun x => { x with tapIr := if dark then [] else bits }]

/-- GET_CERTIFICATE (R505). -/
def execSpdmGetCertificate (f : Fn) (slot off len : Nat) (s : State) : Host.Outcome State Fault Refusal := perform (certAct f slot off len) s
/-- CHALLENGE (R506). -/
def execSpdmChallenge (f : Fn) (slot : Nat) (nonce : List Byte) (s : State) : Host.Outcome State Fault Refusal := perform (challengeAct f slot nonce) s
/-- GET_MEASUREMENTS (R509). -/
def execSpdmMeasurements (f : Fn) (index : Nat) (signed : Bool) (nonce : List Byte) (s : State) : Host.Outcome State Fault Refusal := perform (measAct f index signed nonce) s
/-- KEY_EXCHANGE (R506). -/
def execSpdmKeyExchange (f : Fn) (slot : Nat) (exchange : List Byte) (s : State) : Host.Outcome State Fault Refusal := perform (keyExchangeAct f slot exchange) s
/-- HEARTBEAT in a session (R505). -/
def execSpdmHeartbeat (f : Fn) (session : Nat) (s : State) : Host.Outcome State Fault Refusal := perform (heartbeatMsgAct f session) s
/-- KEY_UPDATE in a session (R505). -/
def execSpdmKeyUpdate (f : Fn) (session : Nat) (s : State) : Host.Outcome State Fault Refusal := perform (keyUpdateAct f session) s
/-- GET_CSR (R505). -/
def execSpdmGetCsr (f : Fn) (s : State) : Host.Outcome State Fault Refusal := perform (csrAct f) s
/-- SET_CERTIFICATE (R505). -/
def execSpdmSetCertificate (f : Fn) (_chain : List Byte) (s : State) : Host.Outcome State Fault Refusal := perform (setCertAct f) s
/-- DOE Discovery (R459). -/
def execDoeDiscovery (f : Fn) (index : Nat) (s : State) : Host.Outcome State Fault Refusal := perform (discoveryAct f index) s
/-- An IDE_KM message (R509). -/
def execIdeKm (f : Fn) (session stream : Nat) (go : Bool) (s : State) : Host.Outcome State Fault Refusal := perform (ideKmAct f session stream go) s
/-- The store of an LMS run ends (R507). -/
def execLmsReservationStore (ok : Bool) (s : State) : Host.Outcome State Fault Refusal := perform (lmsStoreAct ok) s
/-- An IDE integrity check fails (R509). -/
def execIdeIntegrityFailure (f : Fn) (stream : Nat) (s : State) : Host.Outcome State Fault Refusal := perform (ideFailAct f stream) s
/-- The evaluation of an unlock token ends (R513). -/
def execTokenEvaluationDone  (s : State) : Host.Outcome State Fault Refusal := perform (tokenDone) s
/-- The fuse and erase work of a command ends (R510). -/
def execSecCommandComplete  (s : State) : Host.Outcome State Fault Refusal := perform (secComplete) s
/-- DURATION_S has passed (R518). -/
def execDebugExpiry  (s : State) : Host.Outcome State Fault Refusal := perform (debugExpiryAct) s
/-- 10 s have passed without a write of the holding port (R502). -/
def execImageWindowRelease  (s : State) : Host.Outcome State Fault Refusal := perform (imageReleaseAct) s
/-- GET_VERSION (R505). -/
def execSpdmGetVersion (f : Fn) (s : State) : Host.Outcome State Fault Refusal := perform (spdmVersionAct f) s
/-- GET_CAPABILITIES (R505). -/
def execSpdmGetCapabilities (f : Fn) (s : State) : Host.Outcome State Fault Refusal := perform (capsAct f) s
/-- NEGOTIATE_ALGORITHMS (R505). -/
def execSpdmNegotiateAlgorithms (f : Fn) (s : State) : Host.Outcome State Fault Refusal := perform (algsAct f) s
/-- FINISH (R505). -/
def execSpdmFinish (f : Fn) (session : Nat) (s : State) : Host.Outcome State Fault Refusal := perform (finishAct f session) s
/-- END_SESSION (R505). -/
def execSpdmEndSession (f : Fn) (session : Nat) (s : State) : Host.Outcome State Fault Refusal := perform (endSessionAct f session) s
/-- A scan of the test access port (R516). -/
def execTapScan (dr : Bool) (bits : List Bool) (s : State) : Host.Outcome State Fault Refusal := perform (tapAct dr bits) s

end Sys2Proof.Machine
end

