-- ==== Sys2Proof/Machine/Registers.lean ====
section
/-! DEFINITION. What a register shows to a read (R7, R111, R194, R195, R291, R418, R453, R456, R521, R522), and the register writes that the
host and the settings images share (R430, R435, R454, R534). -/

namespace Sys2Proof.Machine

/-! ### Values that a read forms -/

/-- PWR_STATE (R440, R453). -/
def pwrStateValue (s : State) : Nat :=
  ((List.range 4).map fun p => 2 ^ (4 * p) *
    (if s.partExists p then (if partPower s p = 1 ∧ parked s p = false then 0 else partPower s p) else 7)).sum + 2 ^ 16 * s.get F.pwrStateModule

/-- CORE_n_MX_STATUS (R111). -/
def mxStatusValue (k : Core) : Nat :=
  let busy := fun (b : TileBuf) => b2n (k.groups.any fun g => g.op.buf == b)
  b2n k.kindA + 2 * b2n k.kindB + 4 * busy .bufA + 8 * busy .bufB + 16 * b2n (k.units.any fun u => !u.results.isEmpty)

/-- CORE_n_ST_STATUS (R195). DESIGN CHOICE (log 68): of the core's 16 slots (R149), those of context 0 come first. -/
def stStatusValue (s : State) (c : Nat) : Nat :=
  let k := s.core c
  let p := s.partOfCore c
  ((List.range 16).map fun n => 2 ^ n * b2n (k.anyStream (n / (16 / s.ctxCount p)) (n % (16 / s.ctxCount p))).isSome).sum + 2 ^ 16 * k.running +
    2 ^ 18 * b2n ((List.range 64).any fun q => (s.queue p q).held.isSome && (s.queue p q).heldCores.contains c)

/-- DIE_d_REQ_STATUS (R194). -/
def reqStatusValue (s : State) (d : Nat) : Nat :=
  dieOutstanding s d + 2 ^ 16 * dieOffload s d

/-- DIE_d_DRV_STATUS (R291). -/
def drvStatusValue (x : DieState) : Nat := x.drover.length - b2n x.active + 64 * b2n x.active

/-- PWR_LEARN_DATA (R456). -/
def learnValue (s : State) : Nat :=
  let p := s.get F.pwrLearnSelPart
  let t := s.get F.pwrLearnSelPhase
  let o := s.get F.pwrLearnSelOp
  match figure s p t o with
  | some (w, g) => Nat.min w 4095 + 2 ^ 12 * Nat.min g 1024 + 2 ^ 30 * b2n (s.power.learned.any fun e => e.1 == (p, t, o)) + 2 ^ 31
  | none => 0

/-- DBG_LEVEL with the seconds until expiry (R522). -/
def levelValue (s : State) : Nat :=
  (s.reg ⟨.dbgLevel, 0, 0⟩).toNat % 2 ^ 16 + 2 ^ 16 * (match s.sec.expiry with
    | some t => (t - s.time + 999999999) / 1000000000
    | none => 0)

/-- DBG_CORE_STATUS (R522). -/
def coreStatusValue (s : State) (c : Nat) : Nat :=
  let k := s.core c
  b2n k.halted + 2 * b2n k.haltPending + 4 * k.running + 2 ^ 16 * (k.ctx k.running).slot

/-- What a register holds for a read. -/
def shown (s : State) (r : Reg) : DWord :=
  match r.name with
  | .hostCfgStaged => BitVec.ofNat 64 (s.stagedGet F.hostExecCtxCount r.i)
  | .hostPartStaged => BitVec.ofNat 64 (s.stagedGet F.hostPartCfgLayout + 16 * s.stagedGet F.hostPartCfgOwner)
  | .pwrState => BitVec.ofNat 64 (pwrStateValue s)
  | .pwrThrNow => BitVec.ofNat 64 (partReasons s r.i)
  | .coreMxStatus => BitVec.ofNat 64 (mxStatusValue (s.core (36 * r.i + r.j)))
  | .coreStStatus => BitVec.ofNat 64 (stStatusValue s (36 * r.i + r.j))
  | .dieReqStatus => BitVec.ofNat 64 (reqStatusValue s r.i)
  | .dieDrvStatus => BitVec.ofNat 64 (drvStatusValue (s.die r.i))
  | .redStatus => BitVec.ofNat 64 (redStatusValue s r.i)
  | .pwrLearnData => BitVec.ofNat 64 (learnValue s)
  | .dbgLevel => BitVec.ofNat 64 (levelValue s)
  | .dbgCoreStatus => BitVec.ofNat 64 (coreStatusValue s (36 * r.i + r.j))
  | _ => s.reg r

/-! ### Register writes that the images share -/

def clampTo (lo hi v : Nat) : Nat := Nat.max lo (Nat.min hi v)

/-- Values that the module clamps as they are written (R454). -/
def clampedReg (r : Reg) (v : Nat) : Nat :=
  match r.name with
  | .pwrThermal => clampTo 70 103 (v % 128) + 256 * clampTo 85 100 (v / 256 % 128)
  | _ => v

/-- A register takes a whole new value, with what follows from it in the power controller (R428, R430, R433, R435, R442). -/
def regPut (r : Reg) (v : Nat) : Act := fun s =>
  match r.name with
  | .pwrCapHost => capPut F.pwrCapHostCapW (v % 2048) s
  | .pwrShed => capPut F.pwrShedShedW (v % 2048) s
  | .pwrSupplyCfg => Act.all [Act.of [.reg r (BitVec.ofNat 64 v)], updLimits] s
  | _ => [.reg r (BitVec.ofNat 64 (clampedReg r v))]

end Sys2Proof.Machine
end

