-- ==== Sys2Proof/Machine/Startup.lean ====
section
/-! DEFINITION. Start-up (R500, R504, R537), the application of the settings images (R534-R536), WAKE (R539), module reset (R559) and the
end of a write of the module flash (R502, R503). -/

namespace Sys2Proof.Machine

/-! ### Settings images (R534-R536) -/

/-- Bits m of a value replaced. -/
def mergeBits (old v m : Nat) : Nat := (old ^^^ (old &&& m)) ||| (v &&& m)

/-- The register has one instance for each partition; its partition is the first instance number (R544). -/
def perPart : RegName → Bool
  | .hostExec | .hostCfgCommit | .hostCfgStaged | .hostJobSeed | .hostTrainCfg | .hostTrainIrq | .hostTrainStep | .hostTrainApplied
  | .hostTrainBasteBase | .hostTrainBasteSize | .hostTrainWatch | .hostTrainParam | .hostTrainCtrl | .hostTrainRec | .hostTrainStatus
  | .hostQBase | .hostQCplBase | .hostQCtrl | .hostQHead | .hostQTail | .hostQCplHead | .hostQCplTail | .hostQStatus | .hostQPasid
  | .pwrPart | .pwrThrNow | .pwrPhase | .pwrThr | .redCfg | .redWait | .redShep | .redLayout | .redStatus | .redSeq | .redLate
  | .redNoiseCfg | .redNoiseLocal | .redNoiseGlobal | .redNoiseLocalEma | .redNoiseGlobalEma | .redCollectives | .redEscalations
  | .redForced32 | .redPeerWaitNs | .redMissing | .redDivergence | .redShadowMap | .memMap | .memXlatRoot | .memXlatCtrl
  | .memXlatInvAddr | .memXlatInv | .memStage | .fltPartStatus | .fltPartCtrl | .fltPartIrq | .telLoLimits | .telLoPolicy | .telLoStatus
  | .telLoCtrl | .telStatGroups | .telLoPasses | .telLoLetouts | .telEnergyPart | .telEnergyIdle | .telEnergyQ => true
  | _ => false

/-- The partition of the register is absent from the layout (R544). -/
def absentPart (s : State) (r : Reg) : Bool := perPart r.name && !s.partExists r.i

/-- An entry is skipped (R536): 0x8005 once per start. -/
def skipEntry (report : Bool) (a : Nat) : Act :=
  if report then (Act.set F.nvsStatusSkipped 0 0 1).seq (logFault { code := 0x8005, scope := 0, part := none, unit := 4, addr := some (a, false) })
  else Act.skip

/-- The entry of HOST_PART_CFG, with the commit of R465; an inconsistent set changes nothing. -/
def applyPartCfg (m v : Nat) : Act := fun s =>
  let r : Reg := ⟨.hostPartCfg, 0, 0⟩
  let stage : Act := Act.of [.stage r (BitVec.ofNat 64 (mergeBits (s.reg r).toNat v m))]
  (stage.seq (Act.look fun s =>
    if !partsOk s then Act.skip
    else if s.stagedGet F.hostPartCfgLayout ≠ s.layout then layoutChange
    else partsStore)) s

/-- An entry other than that of HOST_PART_CFG. -/
def applyEntry (report : Bool) (only : RegName → Bool) (e : Nat × Nat × Nat) : Act := fun s =>
  match carriedAt e.1 with
  | none => skipEntry report e.1 s
  | some (r, m) =>
    if r.name = .hostPartCfg ∨ only r.name = false then []
    else if absentPart s r then skipEntry report e.1 s
    else regPut r (mergeBits (s.reg r).toNat e.2.2 (e.2.1 &&& m)) s

/-- An image is applied (R536). -/
def applyImage (report : Bool) (only : RegName → Bool) (entries : Tbl Nat (Nat × Nat)) : Act :=
  let es := sortEntries entries
  Act.all [
    Act.each (es.filter fun e => decide (e.1 = (⟨.hostPartCfg, 0, 0⟩ : Reg).addr) && only .hostPartCfg) (fun e => applyPartCfg e.2.1 e.2.2),
    Act.each es (applyEntry report only)]

/-- Layers 2 and 3 (R534). -/
def applyImages (report : Bool) (only : RegName → Bool) : Act := fun s =>
  ((applyImage report only s.nvs.factory.entries).seq (applyImage report only s.nvs.user.entries)) s

/-! ### Start-up (R537) -/

/-- A host port trains, unless its reset pin is low; the rate, width and mode that it reaches are open (log 1), but at 64 GT/s the mode is
flit mode (R459). -/
def portTrain (f : Fn) : Act := fun s =>
  if (s.fn f).perst then []
  else
    let x := Config.freeNat s.free
    [.fld F.hostPortStatusUp f.idx 0 1, .fld F.hostPortStatusRate f.idx 0 (1 + x % 6), .fld F.hostPortStatusWidth f.idx 0 (2 ^ (x / 6 % 4)),
     .fld F.hostPortStatusFlit f.idx 0 (if x % 6 = 5 then 1 else x / 24 % 2), .draw 1]

/-- The journals as they are read at start (R528). -/
def journalsRead : Act := fun s =>
  let x := s.nvs.rescan
  let torn := x.user.torn || x.factory.torn
  let bad := x.user.damaged || x.factory.damaged
  Act.all [
    Act.of [.nvs Nvs.rescan, .fld F.nvsStatusTorn 0 0 (b2n torn), .fld F.nvsStatusDamaged 0 0 (b2n bad)],
    nvsShow,
    if torn then logUnit 0x8001 4 0 none none else Act.skip,
    if x.user.damaged then logUnit 0x8002 4 0 none none else Act.skip,
    if x.factory.damaged then logUnit 0x8003 4 0 none none else Act.skip] s

/-- The LMS ring as it is read at start: whether it can be read is open (log 1). Signing resumes at the next run (R507, R537). -/
def lmsRead : Act := fun s =>
  if Config.freeNat s.free % 2 = 0 then
    [.reg ⟨.secLmsLeft, 0, 0⟩ (BitVec.ofNat 64 (lmsTotal - s.sec.lmsEnd)), .draw 1]
  else Act.all [Act.of [.reg ⟨.secLmsLeft, 0, 0⟩ 0, .draw 1], logUnit 0x8007 4 0 none none] s

/-- Steps 3 to 6 of R500: the identity of the image that runs (R504). -/
def identity : Act := fun s =>
  let img := s.sec.flashImg
  let head := Config.sha384 (imgBytes img 0 0x100)
  let cdiD := Config.hmac384 Config.uds (hashBytes Config.romDigest)
  let cdiA := Config.hmac384 cdiD (List.flatten [hashBytes head, bytesOf 1 s.sec.fuseState, bytesOf 1 s.sec.fuseSvn])
  [.fld F.secLifecycleSvnImage 0 0 (imgSvn img), .sec fun x => { x with hdrDigest := head, cdiA := cdiA }]

/-- Steps 3 to 5 of R537. -/
def startSteps (lost : Bool) : Act :=
  Act.all [
    Act.of [.fld F.secLifecycleRecovery 0 0 0],
    identity,
    if lost then logUnit 0x6007 4 0 none none else Act.skip,
    journalsRead,
    lmsRead,
    Act.of [.fld F.genStartupStage 0 0 2],
    applyImages true fun _ => true,
    ringUpd,
    Act.of [.fld F.genStartupStage 0 0 3],
    updLimits,
    updFold,
    portTrain .pf0,
    portTrain .pf1,
    Act.of [.fld F.genStartupStage 0 0 4]]

/-- RECOVERY (R500, R502). -/
def enterRecovery (code : Nat) (lost : Bool) : Act :=
  Act.all [
    Act.of [.fld F.secLifecycleRecovery 0 0 1, .fld F.genStartupStage 0 0 15],
    if lost then logUnit 0x6007 4 0 none none else Act.skip,
    logUnit code 4 0 none none,
    portTrain .pf0,
    portTrain .pf1]

/-- How the image in flash is judged (R500): 1 good, 2 AUTH, 3 ROLLBACK. The image of manufacture is a good one (log 3). -/
def bootResult (x : Sec) : Nat :=
  if x.flashBad then 2
  else match x.flash with
    | some c => imgResult (imgByte c) none x.fuseSvn
    | none => 1

/-- A settings store and a reservation that the reset cuts off (R507, R559): the run of a reservation in progress may have been
stored (log 1). -/
def cutOff : Act := Act.all [
  storeTorn,
  fun s => if s.sec.lmsStoring then [.sec fun x => { x with lmsEnd := x.lmsEnd + 64 * (Config.freeNat s.free % 2) }, .draw 1] else [],
  fun s => [.sec fun x => { x with flashBad := x.flashBad || s.sec.job.isSome }]]

/-- The sequence of R537 from step 1, with the straps of R562. -/
def startUp (x y z pmb : Nat) (lost : Bool) : Act :=
  Act.all [
    cutOff,
    Act.of [.restart, .fld F.fabCoordX 0 0 x, .fld F.fabCoordY 0 0 y, .fld F.fabCoordZ 0 0 z, .power fun w => { w with pmbAddr := pmb, straps := [x, y, z] }],
    fun s => [.fld F.secLifecycleState 0 0 s.sec.fuseState, .fld F.secLifecycleSvnFuse 0 0 s.sec.fuseSvn],
    nonceFresh,
    Act.look fun s => match bootResult s.sec with
      | 1 => startSteps lost
      | 3 => enterRecovery 0x7002 lost
      | _ => enterRecovery 0x7001 lost]

/-- POWER_ON: from OFF, or before the first start-up. -/
def powerOnAct (x y z pmb : Nat) : Act := fun s =>
  if s.power.off || s.get F.genStartupStage == 1 then startUp x y z pmb s.power.lostInput s else []

/-- MODULE_RESET (R559). -/
def moduleResetAct (x y z pmb : Nat) : Act := fun s => if s.power.off then [] else startUp x y z pmb false s

/-- TIERS_READY: step 6 of R537. -/
def tiersReadyAct : Act := fun s =>
  let st := s.get F.genStartupStage
  if asleep s || !(st == 3 || st == 4) then []
  else .clearMem :: ((List.range 144).map (fun c => Upd.core c fun k => { k with tileA := [], tileB := [] }) ++
    [.fld F.genStartupTiersReady 0 0 1, .fld F.genStartupStage 0 0 5])

/-- PWR_CMD.WAKE (R426, R539). -/
def wakeAct : Act := fun s =>
  if s.get F.pwrStateModule ≠ 4 || s.power.off || s.power.inputLow || s.power.inputHigh then []
  else Act.all [
    Act.of [.resetBlocks, .fld F.fabCoordX 0 0 (s.power.straps.getD 0 0), .fld F.fabCoordY 0 0 (s.power.straps.getD 1 0),
      .fld F.fabCoordZ 0 0 (s.power.straps.getD 2 0), .fld F.pwrStateModule 0 0 0, .power fun x => { x with standbyCause := false }],
    ringUpd,
    applyImages false fun r => !r.kept,
    Act.of [.fld F.genStartupStage 0 0 3],
    updLimits,
    updFold,
    Act.each [Fn.pf0, .pf1] fun f => fun s => if s.flag F.hostPortStatusUp f.idx then portTrain f s else []] s

/-- IMAGE_FLASH_COMPLETE (R502, R503): a recovery image then boots from step 3 of R500. -/
def flashDone : Act := fun s =>
  match s.sec.job with
  | none => []
  | some j => Act.all [
      Act.of [.sec fun x => { x with flash := some j.image, flashBad := false, job := none }],
      secEnd 1 (if j.recovery then 5 else 1),
      if j.recovery then startSteps false else tryStandby] s

/-- The input has stood at 64 V for 10 ms (R537). -/
def execPowerOn (x y z pmb : Nat) (s : State) : Host.Outcome State Fault Refusal := perform (powerOnAct x y z pmb) s
/-- Tier training and zeroing are complete (R537). -/
def execTiersReady  (s : State) : Host.Outcome State Fault Refusal := perform (tiersReadyAct) s
/-- MOD_RESET_N rises after a reset (R559). -/
def execModuleReset (x y z pmb : Nat) (s : State) : Host.Outcome State Fault Refusal := perform (moduleResetAct x y z pmb) s
/-- The image is written to the module flash (R502, R503). -/
def execImageFlashComplete  (s : State) : Host.Outcome State Fault Refusal := perform (flashDone) s
/-- A settings store ends (R532). -/
def execSettingsStoreComplete (readBackOk : Bool) (s : State) : Host.Outcome State Fault Refusal := perform (fun s => if s.power.off then [] else (storeComplete readBackOk).seq tryStandby s) s

end Sys2Proof.Machine
end

