-- ==== Sys2Proof/Machine/HostWrite.lean ====
section
/-! DEFINITION. Host writes to BAR0 and reads of a counter's low half: size and alignment (R2), blocks that answer (R472, R502), the
partition and function checks (R227, R520, R544), access codes (R1), reserved bits (R3), STATIC fields (R6), shadow registers (R7), halves
(R4, R546) and what each register's write does. -/

namespace Sys2Proof.Machine

/-! ### Whether an access reaches its register -/

/-- The block of an offset answers (R472, R502). In STANDBY the debug commands and the trace answer too (R517). -/
def answers (s : State) (off : Nat) (write : Bool) : Bool :=
  if s.flag F.secLifecycleRecovery then decide (off < 0x100000 ∨ (0x300000 ≤ off ∧ off < 0x400000))
  else if asleep s then decide (off < 0x500000 ∨ (0x800000 ≤ off ∧ off < 0xA00000) ∨ (0xA00010 ≤ off ∧ off < 0xA00030)) ||
    (write && (off == 0xA00004))
  else true

/-- The port of f carries accesses: it is not held in reset, and the module is not OFF. -/
def busAlive (s : State) (f : Fn) : Bool := !(s.fn f).perst && !s.power.off

/-- The function and level checks of a register's rule (R139, R206, R227, R474, R520). -/
def guardOk (s : State) (f : Fn) (r : Reg) (g : Guard) : Bool :=
  match g with
  | .any => true
  | .mgmt => s.mgmt == f
  | .part => s.owns f r.i
  | .gate => s.owns f (s.partOfGate r.i)
  | .tag => s.owns f (r.i / tensorsOf s)
  | .self => f.idx == r.i
  | .abort => f.idx == r.i || s.mgmt == f
  | .sec => s.mgmt == f || s.flag F.secLifecycleRecovery
  | .d1 => decide (1 ≤ s.get F.dbgLevelCur)
  | .dbgCore =>
    let p := s.partOfDie r.i
    s.owns f p && (s.get F.dbgLevelCur == 3 || (s.get F.dbgLevelCur == 2 && (s.get F.dbgLevelParts).testBit p))

/-- The STATIC fields of a register are busy (R25, R144, R190, R227, R290, R332, R370, R415). -/
def staticBusy (s : State) (r : Reg) : Bool :=
  match r.name.spec.busy with
  | .never => false
  | .tasks => s.tasksBusy r.i
  | .train => trainBusy s r.i
  | .queue => s.queueTasks r.i r.j
  | .memMap => s.tasksBusy r.i ||
      s.reqs.any (fun q => isTier q.loc && s.partOfCore q.core == r.i) || s.stores.any (fun q => q.issued && isTier q.loc && s.partOfCore q.core == r.i)
  | .ports => (List.range 6).any fun g => portState s g == 1 || portState s g == 2 || portState s g == 3

/-! ### Fields -/

/-- Bits of the fields of a register that have an access code and kind. -/
def bitsOf (fs : List Field) (p : Field → Bool) : Nat := fieldsMask (fs.filter p)

/-- What a write of the bits m of v does to a register by the access codes of its fields (R1, R3, R6, R7). While its block is busy a write
of a STATIC field is refused and marked BUSY; in a register that also has fields which a host may write meanwhile (HOST_Q_CTRL: RESUME,
SKIP, VECTOR, CTX), a STATIC field that is written with the value it holds is not written (log 17). -/
structure Written where
  /-- the register's new value, and that of its shadow -/
  value : Nat
  staged : Option Nat
  /-- bits of v that are written -/
  v : Nat
  mark : Mark
  /-- a STATIC field is busy -/
  busy : Bool
  deriving DecidableEq, Repr

def writeFields (s : State) (r : Reg) (v m : Nat) : Written :=
  let fs := r.name.spec.fields
  let old := (s.reg r).toNat
  let busy := staticBusy s r
  let static := bitsOf fs (fun f => f.acc == .rw && f.kind == .static) &&& m
  let plain := bitsOf fs (fun f => f.acc == .rw && f.kind != .static && f.kind != .shadow) &&& m
  let shadow := bitsOf fs (fun f => f.kind == .shadow) &&& m
  let w1c := bitsOf fs (fun f => f.acc == .w1c) &&& m
  let rw := if busy then plain else plain ||| static
  let mixed := fs.any fun f => f.acc != .ro && (f.kind != .static || f.acc == .wo)
  let refused := busy && (if mixed then (old ^^^ v) &&& static != 0 else static != 0)
  let set := mergeBits old v rw
  { value := set ^^^ (set &&& (v &&& w1c))
    staged := if shadow = 0 then none else some (mergeBits (s.stagedReg r).toNat v shadow)
    v := v &&& m
    mark := { busy := refused, rsv := (v &&& m) &&& (r.name.mask.toNat ^^^ ((2 ^ 64 - 1))) != 0 }
    busy := busy }

/-- A field of the written bits. -/
def Written.get (w : Written) (f : Fld) : Nat := w.v / 2 ^ f.lo % 2 ^ f.w
def Written.on (w : Written) (f : Fld) : Bool := w.get f == 1

/-! ### What each register's write does -/

/-- The value takes its place. -/
def store (r : Reg) (w : Written) : Act := fun s =>
  Act.all [
    match w.staged with
    | some x => Act.of [.stage r (BitVec.ofNat 64 x)]
    | none => Act.skip,
    if w.value = (s.reg r).toNat then Act.skip else regPut r w.value] s

/-- HOST_Q_CTRL (R204, R227, R510). A queue whose committed CTX is not below the context count is not enabled (R213, R224, log 19). -/
def qCtrlPut (f : Fn) (r : Reg) (w : Written) : Act := fun s =>
  let was := s.flag F.hostQCtrlEn r.i r.j
  let on := decide (w.value % 2 = 1)
  let bad := !was && decide (s.ctxCount r.i ≤ s.get F.hostQCtrlCtx r.i r.j)
  let v := if on && (s.sec.fuseState == 2 || bad) then w.value - 1 else w.value
  Act.all [
    store r { w with value := v },
    if on && !was && s.sec.fuseState != 2 then (if bad then regMark f r { mis := true } else queueReset r.i r.j) else Act.skip,
    if !(w.on F.hostQCtrlResume || w.on F.hostQCtrlSkip) then Act.skip
    else if !s.flag F.hostQStatusHeld r.i r.j then regMark f r { busy := true }
    else if w.on F.hostQCtrlSkip then skipAct r.i r.j
    else resumeAct r.i r.j] s

/-- HOST_TRAIN_CTRL (R300, R307, R326, R337). -/
def trainCtrlPut (f : Fn) (r : Reg) (w : Written) : Act := fun s =>
  let id := w.get F.hostTrainCtrlTouchId
  Act.all [
    if w.on F.hostTrainCtrlCommitBaste then basteCommitAct f r.i else Act.skip,
    if w.on F.hostTrainCtrlTouchAll then touchAllEffect r.i else Act.skip,
    if !w.on F.hostTrainCtrlTouch then Act.skip
    else if id < tensorsOf s then touchTag r.i id
    else regMark f r { acc := true },
    if w.on F.hostTrainCtrlPublish then publishEffect r.i else Act.skip] s

/-- HOST_MGMT (R475): each of its two fields has one function that may write it. -/
def mgmtPut (f : Fn) (r : Reg) (w : Written) : Act := fun s =>
  let old := (s.reg r).toNat
  let mine := if s.mgmt = f then 0xFFFF0000 else 0xFF00
  let others := 0xFFFFFF00 ^^^ mine
  Act.all [
    Act.of [.reg r (BitVec.ofNat 64 (mergeBits old w.value mine))],
    if (old ^^^ w.value) &&& others ≠ 0 then regMark f r { acc := true } else Act.skip] s

/-- MEM_MAP (R23): a change of mode leaves the tiers' contents undefined. -/
def memMapPut (r : Reg) (w : Written) : Act := fun s =>
  if w.value = (s.reg r).toNat then [] else (Act.of (tiersUndef s r.i)).seq (store r w) s

/-- MEM_XLAT_INV (R183, R192). -/
def invPut (f : Fn) (r : Reg) (w : Written) : Act := fun s =>
  let go := w.on F.memXlatInvStart
  let done := s.flag F.memXlatInvDone r.i
  Act.all [
    store r w,
    if !go then Act.skip else if done then invStartEffect r.i else regMark f r { busy := true }] s

/-- RED_LAYOUT (R410, R411, R417): COMMIT first. -/
def layoutPut (f : Fn) (r : Reg) (w : Written) : Act :=
  Act.all [
    if w.on F.redLayoutCommit then layoutCommitAct f r.i else Act.skip,
    fun s => if !w.on F.redLayoutForce then [] else if s.flag F.redLayoutPending r.i then layoutForceEffect r.i s else regMark f r { mis := true } s]

/-- FAB_GP_g_CTRL (R361, R371, R373): DISABLE wins. -/
def portCtrlPut (f : Fn) (r : Reg) (w : Written) : Act := fun s =>
  Act.all [
    if w.on F.fabGpCtrlDisable then Act.of (portOff r.i)
    else if !w.on F.fabGpCtrlTrain then Act.skip
    else if trainBad s then regMark f r { mis := true }
    else trainEffect r.i,
    if w.on F.fabGpCtrlRecalNow then Act.of [.port r.i fun y => { y with due := true }] else Act.skip] s

/-- PWR_CTRL (R437). -/
def pwrCtrlPut (r : Reg) (w : Written) : Act :=
  Act.all [store r w, if w.on F.pwrCtrlLearnReset then Act.of [.power fun x => { x with learned := [], unsampled := [] }] else Act.skip]

/-- FLT_LOG_SEL (R486, R494, R547). -/
def logView (s : State) (f : Fn) (n : Nat) : List Byte :=
  match logAt s n with
  | some x => FaultRec.bytes (match x.part with
      | some p => if s.owns f p then x else { x with addr := none }
      | none => x)
  | none => List.replicate 32 0

def logSelPut (f : Fn) (r : Reg) (w : Written) : Act := fun s =>
  let n := w.value
  [.reg r (BitVec.ofNat 64 n), .fn f fun y => { y with logView := logView s f n },
   .log fun l => l.zipIdx.map fun e => if n + 1 + e.2 = s.logCount then { e.1 with read := true } else e.1]

/-- NVS_RD_ADDR (R540): the LMS region and what lies above the fault log read 0. -/
def nvsSelPut (f : Fn) (r : Reg) (w : Written) : Act := fun s =>
  let a := w.value
  let hidden := decide ((0x300000 ≤ a ∧ a < 0x310000) ∨ 0x350000 ≤ a)
  [.reg r (BitVec.ofNat 64 a), .fn f fun y => { y with nvsView := if hidden then List.replicate 256 0 else nvsAt s a 256 }]

/-- DBG_TRACE_SEL (R523, R547). -/
def traceSelPut (f : Fn) (r : Reg) (w : Written) : Act := fun s =>
  let n := w.value
  let rec_ := if n < s.sec.traceCount then (s.sec.trace[s.sec.traceCount - 1 - n]?).getD (List.replicate 16 0) else List.replicate 16 0
  [.reg r (BitVec.ofNat 64 n), .fn f fun y => { y with traceView := rec_ }]

/-- What a write that reached its register does. -/
def regWrite (f : Fn) (r : Reg) (w : Written) : Act := fun s =>
  match r.name with
  | .cfgErr => cfgErrClear f w.v s
  | .genRefTimeLoad =>
    -- the seconds until the expiry of R522 do not change with the load
    let delta := fun (t : Nat) => t - s.time + w.v
    [.reg ⟨.genRefTime, 0, 0⟩ (BitVec.ofNat 64 w.v), .sec fun x => { x with expiry := x.expiry.map delta }]
  | .hostCfgCommit => if w.on F.hostCfgCommitCommit then cfgCommitAct f r.i s else []
  | .hostTrainCfg => if w.busy then [] else (store r w).seq (Act.set F.hostTrainStatusCleanCount r.i 0 0) s
  | .hostTrainStep | .hostTrainApplied =>
    if w.busy then [] else (store r w).seq (Act.of [.fld F.hostTrainStatusFresh r.i 0 1, .reg ⟨.redSeq, r.i, 0⟩ 0]) s
  | .hostTrainCtrl => trainCtrlPut f r w s
  | .hostQCtrl => qCtrlPut f r w s
  | .hostQCplHead =>
    if cplHeadBad s r.i r.j w.value then regMark f r { acc := true } s else (store r w).seq (flushRecords r.i r.j) s
  | .hostGateAdd => gateAdd r.i w.v s
  | .hostPartCommit => if w.on F.hostPartCommitCommit then partsCommitAct f s else []
  | .hostMgmt => mgmtPut f r w s
  | .hostMgmtCmd =>
    match w.get F.hostMgmtCmdCmd with
    | 1 => mgmtCmdAct f .heartbeat s
    | 2 => mgmtCmdAct f .give s
    | 3 => mgmtCmdAct f .takeover s
    | _ => []
  | .hostAbort => (store r w).seq (if w.on F.hostAbortGo then abortGo f (Fn.ofIdx r.i) else Act.skip) s
  | .pwrCmd => if w.on F.pwrCmdStandby then standbyAct s else if w.on F.pwrCmdWake then wakeAct s else []
  | .pwrCapHost | .pwrShed | .pwrThermal => regPut r w.value s
  | .pwrCtrl => pwrCtrlPut r w s
  | .memMap => memMapPut r w s
  | .memXlatInv => invPut f r w s
  | .redLayout => layoutPut f r w s
  | .redNoiseCfg =>
    (store r w).seq (if w.on F.redNoiseCfgEmaReset then Act.of [.part r.i fun y => { y with tally := { y.tally with emaReset := true } }] else Act.skip) s
  | .telLoCtrl => if w.on F.telLoCtrlUnpin then Act.set F.telLoStatusUnpinPending r.i 0 1 s else []
  | .fabGpCtrl => portCtrlPut f r w s
  | .secCmd => secCmdAct f (w.get F.secCmdCmd) s
  | .nvsCmd => if w.on F.nvsCmdStore then settingsStoreAct f s else []
  | .nvsRdAddr => nvsSelPut f r w s
  | .fltPartCtrl => partCtrlAct f r.i (w.on F.fltPartCtrlClear) (w.on F.fltPartCtrlReclaim) s
  | .fltLogSel => logSelPut f r w s
  | .dbgCtrl => if w.on F.dbgCtrlRelock then relockAct s else if w.on F.dbgCtrlUnlock then unlockAct f s else []
  | .dbgTraceSel => traceSelPut f r w s
  | .dbgCoreCtrl => coreCtrlAct f (36 * r.i + r.j) (w.on F.dbgCoreCtrlHalt) (w.on F.dbgCoreCtrlResume) (w.on F.dbgCoreCtrlStep) s
  | _ => store r w s

/-- Bits m of v are written into a register by an access at an offset. SEC_CMD judges its own sender (R520, R521), and in STANDBY a core
halt is refused (R517). -/
def writeReg (f : Fn) (off : Nat) (r : Reg) (v m : Nat) : Act := fun s =>
  let w := writeFields s r v m
  let g := r.name.spec.wg
  if absentPart s r then cfgMark f { acc := true } 0 off true s
  else if !guardOk s f r g && r.name != .secCmd then cfgMark f { acc := true } 0 off true s
  else if r.name = .genRefTimeLoad ∧ m ≠ 2 ^ 64 - 1 then cfgMark f { acc := true } 0 off true s
  else ((regWrite f r w).seq (cfgMark f w.mark 0 off true)) s

/-! ### Windows (R462, R502, R512, R532, R547) -/

/-- A word of the MSI-X table of function f: address, data and mask bit. Unmasking sends a pending message. -/
def msixWrite (f : Fn) (o v : Nat) : Act := fun s =>
  let n := o / 16
  let (a, d, k) := tget (s.fn f).msix n (0, 0, true)
  let e := match o / 4 % 4 with
    | 0 => (a / 2 ^ 32 * 2 ^ 32 + v / 4 * 4, d, k)
    | 1 => (a % 2 ^ 32 + 2 ^ 32 * v, d, k)
    | 2 => (a, v, k)
    | _ => (a, d, v % 2 == 1)
  let fire := !e.2.2 && (s.fn f).pba.contains n && (s.fn f).msixEnable
  .fn f (fun y => { y with msix := tset y.msix n e, pba := if fire then y.pba.filter (fun x => decide (x ≠ n)) else y.pba }) ::
    (if fire then [Upd.emit (.msix f n e.1 e.2.1)] else [])

/-- Bytes of a list replaced from a place on. -/
def listPut (l : List Byte) (at_ : Nat) (bs : List Byte) : List Byte := l.take at_ ++ bs ++ l.drop (at_ + bs.length)

/-- A word of n bytes written to a window; none where the offset lies in no window. -/
def windowWrite (f : Fn) (off n v : Nat) : Option Act :=
  if 0x110000 ≤ off ∧ off < 0x111000 then
    some (Act.all ((List.range (n / 4)).map fun k => msixWrite f (off - 0x110000 + 4 * k) (v / 2 ^ (32 * k) % 2 ^ 32)))
  else if 0x300100 ≤ off ∧ off < 0x300170 then
    some fun s => if guardOk s f ⟨.secCmd, 0, 0⟩ .sec then [.sec fun x => { x with token := listPut x.token (off - 0x300100) (bytesOf n v) }]
      else cfgMark f { acc := true } 0 off true s
  else if 0x310000 ≤ off ∧ off < 0x320000 then
    some fun s => if guardOk s f ⟨.secCmd, 0, 0⟩ .sec then imageWindowAct f (off - 0x310000) n v s else cfgMark f { acc := true } 0 off true s
  else if 0x401000 ≤ off ∧ off < 0x402000 then
    some fun s => if s.mgmt ≠ f then cfgMark f { acc := true } 0 off true s
      else if s.flag F.nvsCmdStatusBusy then cfgMark f { busy := true } 0 off true s
      else [.nvs fun x => { x with stage := listPut x.stage (off - 0x401000) (bytesOf n v) }]
  else if (0x111000 ≤ off ∧ off < 0x111020) ∨ (0x402000 ≤ off ∧ off < 0x402100) ∨ (0x800100 ≤ off ∧ off < 0x800120) ∨
      (0x940000 ≤ off ∧ off < 0x980000) then some Act.skip
  else if 0xA00020 ≤ off ∧ off < 0xA00030 then
    some fun s => if s.get F.dbgLevelCur = 0 then cfgMark f { acc := true } 0 off true s else []
  else none

/-! ### The access -/

/-- One 32-bit word written to an offset that no window holds. -/
def wordWrite (f : Fn) (off v : Nat) : Act :=
  match wordAt f off with
  | some (r, hi) => writeReg f off r (if hi then v * 2 ^ 32 else v) (if hi then 2 ^ 64 - 2 ^ 32 else 2 ^ 32 - 1)
  | none => cfgMark f { rsv := true } 0 off true

/-- Two 32-bit words: the lower address first (R546). -/
def pairWrite (f : Fn) (off v : Nat) : Act := (wordWrite f off (v % 2 ^ 32)).seq (wordWrite f (off + 4) (v / 2 ^ 32))

/-- The marks of one access are recorded as one (R548): FIRST is the first of them in order, and CFG_ERR_ADDR names the access. `was` is
CFG_ERR as the access found it, or as its own clear left it. -/
def oneMark (f : Fn) (off was : Nat) : Act := fun s =>
  let now := (s.reg ⟨.cfgErr, f.idx, 0⟩).toNat % 16
  if was % 16 = 0 ∧ now ≠ 0 then
    [.fld F.cfgErrFirst f.idx 0 (Mark.ofBits now).first, .fld F.cfgErrOverrun f.idx 0 0, .fld F.cfgErrAddrOffset f.idx 0 off]
  else []

/-- A write of n bytes of x that the block answers. -/
def liveWrite (f : Fn) (off n x : Nat) : Act :=
  match windowWrite f off n x with
  | some a => a
  | none =>
    if n = 4 then wordWrite f off x
    else match regAt f off with
      | some r => if r.name.spec.width = 64 then writeReg f off r x (2 ^ 64 - 1) else pairWrite f off x
      | none => pairWrite f off x

/-- A write of n bytes of v to BAR0 by function f. -/
def hostWrite (f : Fn) (off n v : Nat) : Act := fun s =>
  if !busAlive s f then []
  else if !(n == 4 || n == 8) || off % n ≠ 0 then cfgMark f { acc := true } 0 off true s
  else if !answers s off true then
    (match asleep s, wordAt f off with
    | true, some (r, false) =>
      if r.name = .dbgCoreCtrl ∧ guardOk s f r .dbgCore = true then
        coreCtrlAct f (36 * r.i + r.j) (v.testBit 0) (v.testBit 1) (v.testBit 2) s
      else []
    | _, _ => [])
  else
    let cfg := (run (if off = 8 then cfgErrClear f (v % 2 ^ 32) else Act.skip) s).reg ⟨.cfgErr, f.idx, 0⟩
    (liveWrite f off n (v % 2 ^ (8 * n))).seq (oneMark f off cfg.toNat) s

/-! ### Reads -/

/-- Whether function f may read a register, and the mark of a refused read (R227, R520, R544). -/
def readOk (s : State) (f : Fn) (r : Reg) : Bool := !absentPart s r && guardOk s f r r.name.spec.rg

/-- What a read of the high half returns (R4): the latched value, or the live one before any low half has been read. -/
def highHalf (s : State) (f : Fn) (off : Nat) : Nat :=
  match regAt f off with
  | some r => tget (s.fn f).latch off ((shown s r).toNat / 2 ^ 32)
  | none => 0

/-- A 32-bit word of bytes. -/
def wordOf (bs : List Byte) (o : Nat) : Nat := natOf ((bs.drop o).take 4)

/-- A word of a window, and whether the function may read it (R462, R520, R532, R540, R545, R547): none where the offset lies in no window. -/
def windowRead (s : State) (f : Fn) (off : Nat) : Option (Nat × Bool) :=
  let y := s.fn f
  if 0x110000 ≤ off ∧ off < 0x111000 then
    let e := tget y.msix ((off - 0x110000) / 16) (0, 0, true)
    some (match off / 4 % 4 with
      | 0 => e.1 % 2 ^ 32
      | 1 => e.1 / 2 ^ 32
      | 2 => e.2.1
      | _ => b2n e.2.2, true)
  else if 0x111000 ≤ off ∧ off < 0x111020 then
    some (((List.range 32).map fun k => 2 ^ k * b2n (y.pba.contains (8 * (off - 0x111000) + k))).sum, true)
  else if 0x401000 ≤ off ∧ off < 0x402000 then some (wordOf s.nvs.stage (off - 0x401000), true)
  else if 0x402000 ≤ off ∧ off < 0x402100 then some (wordOf y.nvsView (off - 0x402000), true)
  else if 0x800100 ≤ off ∧ off < 0x800120 then some (wordOf y.logView (off - 0x800100), true)
  else if 0x940000 ≤ off ∧ off < 0x980000 then some (wordOf (s.tstatRec ((off - 0x940000) / 64)) (off % 64), true)
  else if 0xA00020 ≤ off ∧ off < 0xA00030 then some (wordOf y.traceView (off - 0xA00020), decide (1 ≤ s.get F.dbgLevelCur))
  else none

/-- A 32-bit word as a read finds it, and what the read does: the low half of a 64-bit register latches its high half for the function,
and the high half is the latched one (R4, R545, R546); a read that the function may not make returns 0 and is marked. -/
def wordRead (s : State) (f : Fn) (off : Nat) : Nat × Act :=
  let refused : Nat × Act := (0, cfgMark f { acc := true } 0 off false)
  match wordAt f off with
  | some (r, hi) =>
    if !readOk s f r then refused
    else if hi then (highHalf s f (off - 4), Act.skip)
    else
      let v := (shown s r).toNat
      (v % 2 ^ 32, if r.name.spec.width = 64 then Act.of [.fn f fun y => { y with latch := tset y.latch off (v / 2 ^ 32) }] else Act.skip)
  | none => match windowRead s f off with
    | some (v, ok) => if ok then (v, Act.skip) else refused
    | none => (0, Act.skip)

/-- A read of n bytes that the block answers: its value, and what it does. A 64-bit read of a 64-bit register is atomic (R4). -/
def liveRead (s : State) (f : Fn) (off n : Nat) : Nat × Act :=
  let pair : Nat × Act :=
    let a := wordRead s f off
    let b := wordRead s f (off + 4)
    (a.1 + 2 ^ 32 * b.1, a.2.seq b.2)
  if n = 4 then wordRead s f off
  else match regAt f off with
    | some r =>
      if r.name.spec.width ≠ 64 then pair
      else if !readOk s f r then (0, cfgMark f { acc := true } 0 off false) else ((shown s r).toNat, Act.skip)
    | none => pair

/-- COUNTER_LOW_HALF_READ: a read of n bytes of BAR0 (R2, R4). A size or alignment that BAR0 does not accept returns 0 and is marked. -/
def hostRead (f : Fn) (off n : Nat) : Act := fun s =>
  let zero : Act := Act.of [.emit (.read f (List.replicate n 0) false)]
  if !busAlive s f then []
  else if !(n == 4 || n == 8) || off % n ≠ 0 then (zero.seq (cfgMark f { acc := true } 0 off false)) s
  else if !answers s off false then zero s
  else
    let was := (s.reg ⟨.cfgErr, f.idx, 0⟩).toNat
    let r := liveRead s f off n
    Act.all [Act.of [.emit (.read f (bytesOf n r.1) false)], r.2, oneMark f off was] s

/-! ### The rows of single registers -/

/-- A write of one register of 32 bits by function f. -/
def writeOne (f : Fn) (r : Reg) (v : Nat) : Act := hostWrite f r.addr 4 v

/-- A write that sets the given fields of a register and leaves the stored value of its other fields as it is: how a host sets one
field of a register that holds several. Shadowed fields are written with their staged values. -/
def writeBits (f : Fn) (r : Reg) (fs : List (Fld × Nat)) : Act := fun s =>
  let now := mergeBits (s.reg r).toNat (s.stagedReg r).toNat (bitsOf r.name.spec.fields fun x => x.kind == .shadow)
  writeOne f r (fs.foldl (fun v e => (setBits (BitVec.ofNat 64 v) e.1.lo e.1.w e.2).toNat) now) s

/-- A host write to BAR0 (R1-R7). -/
def execRegisterWrite (f : Fn) (off bytes : Nat) (v : DWord) (s : State) : Host.Outcome State Fault Refusal := perform (hostWrite f off bytes v.toNat) s
/-- A read of a register, of a counter's low or high half or of both (R2, R4). -/
def execCounterLowHalfRead (f : Fn) (a : BarRead) (s : State) : Host.Outcome State Fault Refusal := perform (hostRead f a.off a.bytes) s
/-- A write to CFG_ERR (R548). -/
def execCfgErrWrite (f : Fn) (v : Word) (s : State) : Host.Outcome State Fault Refusal := perform (writeOne f ⟨.cfgErr, f.idx, 0⟩ v.toNat) s
/-- A write to GEN_REF_TIME_LOAD, to its low or high half's address (R40). -/
def execGenRefTimeLoad (f : Fn) (bytes : Nat) (hi : Bool) (v : DWord) (s : State) : Host.Outcome State Fault Refusal := perform (hostWrite f (if hi then 0x2C else 0x28) bytes v.toNat) s
/-- TEL_LO_CTRL_p.UNPIN (R138). -/
def execUnpin (f : Fn) (p : PartIx) (s : State) : Host.Outcome State Fault Refusal := perform (writeOne f ⟨.telLoCtrl, p, 0⟩ 1) s
/-- MEM_XLAT_INV_p.START (R183). -/
def execXlatInvalidateStart (f : Fn) (p : PartIx) (s : State) : Host.Outcome State Fault Refusal := perform (writeBits f ⟨.memXlatInv, p, 0⟩ [(F.memXlatInvStart, 1)]) s
/-- A write of HOST_Q_CPL_HEAD (R229). -/
def execCplHeadWrite (f : Fn) (p : PartIx) (q : QueueIx) (v : Word) (s : State) : Host.Outcome State Fault Refusal := perform (writeOne f ⟨.hostQCplHead, p, q⟩ v.toNat) s
/-- HOST_Q_CTRL.EN (R227). -/
def execQueueEnable (f : Fn) (p : PartIx) (q : QueueIx) (en : Bool) (s : State) : Host.Outcome State Fault Refusal := perform (writeBits f ⟨.hostQCtrl, p, q⟩ [(F.hostQCtrlEn, b2n en)]) s
/-- HOST_Q_CTRL.RESUME (R204). -/
def execQueueResume (f : Fn) (p : PartIx) (q : QueueIx) (s : State) : Host.Outcome State Fault Refusal := perform (writeBits f ⟨.hostQCtrl, p, q⟩ [(F.hostQCtrlResume, 1)]) s
/-- HOST_Q_CTRL.SKIP (R204). -/
def execQueueSkip (f : Fn) (p : PartIx) (q : QueueIx) (s : State) : Host.Outcome State Fault Refusal := perform (writeBits f ⟨.hostQCtrl, p, q⟩ [(F.hostQCtrlSkip, 1)]) s
/-- A host write to a gate (R208). -/
def execGateSet (f : Fn) (g : GateIx) (v : Word) (s : State) : Host.Outcome State Fault Refusal := perform (writeOne f ⟨.hostGate, g, 0⟩ v.toNat) s
/-- A host addition to a gate (R208). -/
def execGateAdd (f : Fn) (g : GateIx) (v : Word) (s : State) : Host.Outcome State Fault Refusal := perform (writeOne f ⟨.hostGateAdd, g, 0⟩ v.toNat) s
/-- HOST_CFG_COMMIT_p.COMMIT (R224). -/
def execCfgCommit (f : Fn) (p : PartIx) (s : State) : Host.Outcome State Fault Refusal := perform (writeOne f ⟨.hostCfgCommit, p, 0⟩ 1) s
/-- HOST_TRAIN_CTRL_p.PUBLISH (R300). -/
def execPublish (f : Fn) (p : PartIx) (s : State) : Host.Outcome State Fault Refusal := perform (writeOne f ⟨.hostTrainCtrl, p, 0⟩ 1) s
/-- HOST_TRAIN_CTRL_p.COMMIT_BASTE (R307). -/
def execCommitBaste (f : Fn) (p : PartIx) (s : State) : Host.Outcome State Fault Refusal := perform (writeOne f ⟨.hostTrainCtrl, p, 0⟩ 2) s
/-- HOST_TRAIN_CTRL_p.TOUCH with its identifier (R326, R337). -/
def execTouch (f : Fn) (p : PartIx) (id : Fin 4096) (s : State) : Host.Outcome State Fault Refusal := perform (writeOne f ⟨.hostTrainCtrl, p, 0⟩ (8 + 0x10000 * id)) s
/-- HOST_TRAIN_CTRL_p.TOUCH_ALL (R326). -/
def execTouchAll (f : Fn) (p : PartIx) (s : State) : Host.Outcome State Fault Refusal := perform (writeOne f ⟨.hostTrainCtrl, p, 0⟩ 4) s
/-- A host write to a step counter (R299). -/
def execTrainCounterWrite (f : Fn) (p : PartIx) (applied : Bool) (v : DWord) (s : State) : Host.Outcome State Fault Refusal := perform (hostWrite f (Reg.addr ⟨if applied then .hostTrainApplied else .hostTrainStep, p, 0⟩) 8 v.toNat) s
/-- A write to HOST_TRAIN_CFG_p (R304). -/
def execTrainCfgWrite (f : Fn) (p : PartIx) (v : Word) (s : State) : Host.Outcome State Fault Refusal := perform (writeOne f ⟨.hostTrainCfg, p, 0⟩ v.toNat) s
/-- FAB_GP_g_CTRL.TRAIN (R361). -/
def execTrain (f : Fn) (g : PortIx) (s : State) : Host.Outcome State Fault Refusal := perform (writeOne f ⟨.fabGpCtrl, g, 0⟩ 1) s
/-- FAB_GP_g_CTRL.DISABLE (R373). -/
def execDisable (f : Fn) (g : PortIx) (s : State) : Host.Outcome State Fault Refusal := perform (writeOne f ⟨.fabGpCtrl, g, 0⟩ 2) s
/-- FAB_GP_g_CTRL.RECAL_NOW (R373). -/
def execRecalNow (f : Fn) (g : PortIx) (s : State) : Host.Outcome State Fault Refusal := perform (writeOne f ⟨.fabGpCtrl, g, 0⟩ 4) s
/-- RED_LAYOUT_p.COMMIT (R410). -/
def execLayoutCommit (f : Fn) (p : PartIx) (s : State) : Host.Outcome State Fault Refusal := perform (writeOne f ⟨.redLayout, p, 0⟩ 1) s
/-- RED_LAYOUT_p.FORCE (R411). -/
def execLayoutForce (f : Fn) (p : PartIx) (s : State) : Host.Outcome State Fault Refusal := perform (writeOne f ⟨.redLayout, p, 0⟩ 2) s
/-- RED_NOISE_CFG_p.EMA_RESET (R418). -/
def execEmaReset (f : Fn) (p : PartIx) (s : State) : Host.Outcome State Fault Refusal := perform (writeBits f ⟨.redNoiseCfg, p, 0⟩ [(F.redNoiseCfgEmaReset, 1)]) s
/-- PWR_CMD.STANDBY (R427). -/
def execStandby (f : Fn) (s : State) : Host.Outcome State Fault Refusal := perform (writeOne f ⟨.pwrCmd, 0, 0⟩ 1) s
/-- PWR_CMD.WAKE (R539). -/
def execWake (f : Fn) (s : State) : Host.Outcome State Fault Refusal := perform (writeOne f ⟨.pwrCmd, 0, 0⟩ 2) s
/-- A write of PWR_CAP_HOST (R430). -/
def execCapWrite (f : Fn) (v : Word) (s : State) : Host.Outcome State Fault Refusal := perform (writeOne f ⟨.pwrCapHost, 0, 0⟩ v.toNat) s
/-- PWR_CTRL.LEARN_RESET (R437). -/
def execLearnReset (f : Fn) (s : State) : Host.Outcome State Fault Refusal := perform (writeBits f ⟨.pwrCtrl, 0, 0⟩ [(F.pwrCtrlLearnReset, 1)]) s
/-- PWR_PART_p.FOLD_REQ (R442). -/
def execFoldReq (f : Fn) (p : PartIx) (on : Bool) (s : State) : Host.Outcome State Fault Refusal := perform (writeBits f ⟨.pwrPart, p, 0⟩ [(F.pwrPartFoldReq, b2n on)]) s
/-- HEARTBEAT (R467). -/
def execHeartbeat (f : Fn) (s : State) : Host.Outcome State Fault Refusal := perform (writeOne f ⟨.hostMgmtCmd, 0, 0⟩ 1) s
/-- GIVE (R467). -/
def execGive (f : Fn) (s : State) : Host.Outcome State Fault Refusal := perform (writeOne f ⟨.hostMgmtCmd, 0, 0⟩ 2) s
/-- TAKEOVER (R467). -/
def execTakeover (f : Fn) (s : State) : Host.Outcome State Fault Refusal := perform (writeOne f ⟨.hostMgmtCmd, 0, 0⟩ 3) s
/-- HOST_ABORT_f.GO (R470). -/
def execFunctionAbort (by_ : Fn) (f : Fn) (s : State) : Host.Outcome State Fault Refusal := perform (writeBits by_ ⟨.hostAbort, f.idx, 0⟩ [(F.hostAbortGo, 1)]) s
/-- HOST_PART_COMMIT.COMMIT (R465). -/
def execPartitionCommit (f : Fn) (s : State) : Host.Outcome State Fault Refusal := perform (writeOne f ⟨.hostPartCommit, 0, 0⟩ 1) s
/-- FLT_PART_CTRL_p.CLEAR (R484). -/
def execClear (f : Fn) (p : PartIx) (s : State) : Host.Outcome State Fault Refusal := perform (writeOne f ⟨.fltPartCtrl, p, 0⟩ 1) s
/-- FLT_PART_CTRL_p.RECLAIM (R484). -/
def execReclaim (f : Fn) (p : PartIx) (s : State) : Host.Outcome State Fault Refusal := perform (writeOne f ⟨.fltPartCtrl, p, 0⟩ 2) s
/-- A write of FLT_LOG_SEL (R547). -/
def execFltLogSelect (f : Fn) (n : Word) (s : State) : Host.Outcome State Fault Refusal := perform (writeOne f ⟨.fltLogSel, f.idx, 0⟩ n.toNat) s
/-- A write of NVS_RD_ADDR (R540). -/
def execNvsReadSelect (f : Fn) (v : Word) (s : State) : Host.Outcome State Fault Refusal := perform (writeOne f ⟨.nvsRdAddr, f.idx, 0⟩ v.toNat) s
/-- A write of DBG_TRACE_SEL (R547). -/
def execTraceSelect (f : Fn) (n : Word) (s : State) : Host.Outcome State Fault Refusal := perform (writeOne f ⟨.dbgTraceSel, f.idx, 0⟩ n.toNat) s
/-- IMAGE_UPDATE (R503). -/
def execImageUpdate (f : Fn) (s : State) : Host.Outcome State Fault Refusal := perform (writeOne f ⟨.secCmd, 0, 0⟩ 1) s
/-- FUSE_COMMIT (R501). -/
def execFuseCommit (f : Fn) (s : State) : Host.Outcome State Fault Refusal := perform (writeOne f ⟨.secCmd, 0, 0⟩ 2) s
/-- TAKE_OWNERSHIP (R510). -/
def execTakeOwnership (f : Fn) (s : State) : Host.Outcome State Fault Refusal := perform (writeOne f ⟨.secCmd, 0, 0⟩ 3) s
/-- RETIRE (R510, R514). -/
def execRetire (f : Fn) (s : State) : Host.Outcome State Fault Refusal := perform (writeOne f ⟨.secCmd, 0, 0⟩ 4) s
/-- RECOVER_COMMIT (R502). -/
def execRecoverCommit (f : Fn) (s : State) : Host.Outcome State Fault Refusal := perform (writeOne f ⟨.secCmd, 0, 0⟩ 5) s
/-- A write to SEC_IMG_WIN at an offset of the window (R502). -/
def execImageWindowWrite (f : Fn) (off bytes : Nat) (v : DWord) (s : State) : Host.Outcome State Fault Refusal := perform (hostWrite f (0x310000 + off % 0x10000) bytes v.toNat) s
/-- DBG_CTRL.UNLOCK (R513). -/
def execUnlock (f : Fn) (s : State) : Host.Outcome State Fault Refusal := perform (writeOne f ⟨.dbgCtrl, 0, 0⟩ 1) s
/-- DBG_CTRL.RELOCK (R513). -/
def execRelock (f : Fn) (s : State) : Host.Outcome State Fault Refusal := perform (writeOne f ⟨.dbgCtrl, 0, 0⟩ 2) s
/-- DBG_CORE_CTRL_n.HALT (R515, R517). -/
def execCoreHalt (f : Fn) (c : CoreIx) (s : State) : Host.Outcome State Fault Refusal := perform (writeOne f ⟨.dbgCoreCtrl, c / 36, c % 36⟩ 1) s
/-- DBG_CORE_CTRL_n.RESUME (R522). -/
def execCoreResume (f : Fn) (c : CoreIx) (s : State) : Host.Outcome State Fault Refusal := perform (writeOne f ⟨.dbgCoreCtrl, c / 36, c % 36⟩ 2) s
/-- DBG_CORE_CTRL_n.STEP (R515). -/
def execCoreStep (f : Fn) (c : CoreIx) (s : State) : Host.Outcome State Fault Refusal := perform (writeOne f ⟨.dbgCoreCtrl, c / 36, c % 36⟩ 4) s
/-- NVS_CMD.STORE (R532). -/
def execSettingsStore (f : Fn) (s : State) : Host.Outcome State Fault Refusal := perform (writeOne f ⟨.nvsCmd, 0, 0⟩ 1) s

end Sys2Proof.Machine
end

