-- ==== Sys2Proof/Machine/Recal.lean ====
section
/-! DEFINITION. Recalibration of Garjor ports (R367, R368). -/

namespace Sys2Proof.Machine

/-- A collective in Tally's list uses a port: one of its stages runs along the port's axis (R367, R380). -/
def collUses (s : State) (g p : Nat) (c : Coll) : Bool :=
  (stagesOf s p (acting s p).1 (c.c.kind == .stepClose) c.c.group 0).any fun t => t.axis == g / 2

/-- An idle window (R367): no flit of VC_0 to VC_2 waits or is in flight, and no collective in Tally's list uses the port. -/
def recalWindow (s : State) (g : Nat) : Bool :=
  let y := s.port g
  y.txq.all (fun k => decide (2 < k.vc)) && y.replay.all (fun f => f.ctrl.isSome || decide (2 < f.vc)) &&
    (List.range s.nParts).all fun p => (s.part p).tally.list.all fun c => !collUses s g p c

/-- INTERVAL_MS, at the nearer limit where it lies outside (R372). -/
def recalInterval (s : State) : Nat := Nat.max 100 (Nat.min 10000 (s.get F.fabRecalCfgIntervalMs))

/-- The port is due (R367, R373). -/
def recalDue (s : State) (g : Nat) : Bool := (s.port g).due || decide (recalInterval s * 1000000 ≤ (s.port g).calAge)

/-- This end of the link starts a recalibration: the one with the lower rank (R367). -/
def recalStarter (s : State) (g : Nat) : Bool := decide (s.rank < rankOf (neighbour s g))

/-- The recalibration starts, and the partner hears of it in a CTRL flit (R367). The other end waits for that flit. -/
def recalBegin (g : Nat) : Act := fun s =>
  if recalStarter s g then [.fld F.fabGpStatusState g 0 3, .port g fun y => { y with ctrlq := .recalStart :: y.ctrlq }] else []

/-- RECAL_START. -/
def recalStartAct (g : Nat) : Act := fun s => if portUp s g && recalDue s g && recalWindow s g then recalBegin g s else []
/-- RECAL_FORCED: no window has come within 10 s of the last training or recalibration. -/
def recalForcedAct (g : Nat) : Act := fun s => if portUp s g && decide (10000000000 ≤ (s.port g).calAge) then recalBegin g s else []
/-- RECAL_COMPLETE: the end that started it says so to the partner. -/
def recalDoneAct (g : Nat) : Act := fun s =>
  if portState s g = 3 then recalEnded g ++ (if recalStarter s g then [pushCtrl g .recalEnd] else []) else []

/-- A recalibration starts in an idle window (R367). -/
def execRecalStart (g : PortIx) (s : State) : Host.Outcome State Fault Refusal := perform (recalStartAct g) s
/-- A recalibration is forced (R367). -/
def execRecalForced (g : PortIx) (s : State) : Host.Outcome State Fault Refusal := perform (recalForcedAct g) s
/-- A recalibration ends (R367). -/
def execRecalComplete (g : PortIx) (s : State) : Host.Outcome State Fault Refusal := perform (recalDoneAct g) s

end Sys2Proof.Machine
end

