-- ==== Sys2Proof/Machine/Dispatch.lean ====
section
/-! DEFINITION. The dispatcher: one arm for each command, each a direct call of the command's meaning. -/

namespace Sys2Proof.Machine

def exec (i : Instr) (s : State) : Host.Outcome State Fault Refusal :=
  match i with
  | .registerWrite f off bytes v => Sys2Proof.Machine.execRegisterWrite f off bytes v s
  | .counterLowHalfRead f a => Sys2Proof.Machine.execCounterLowHalfRead f a s
  | .cfgErrWrite f v => Sys2Proof.Machine.execCfgErrWrite f v s
  | .genRefTimeLoad f bytes hi v => Sys2Proof.Machine.execGenRefTimeLoad f bytes hi v s
  | .opMoveComplete d => Sys2Proof.Machine.execOpMoveComplete d s
  | .droopEventStart d depthMv => Sys2Proof.Machine.execDroopEventStart d depthMv s
  | .droopEventEnd d => Sys2Proof.Machine.execDroopEventEnd d s
  | .mpass c => Sys2Proof.Machine.execMpass c s
  | .fillComplete c => Sys2Proof.Machine.execFillComplete c s
  | .rowAdmit c parityError => Sys2Proof.Machine.execRowAdmit c parityError s
  | .passLastResult r => Sys2Proof.Machine.execPassLastResult r s
  | .letoutTileRepeat c => Sys2Proof.Machine.execLetoutTileRepeat c s
  | .letoutLayerRestart c => Sys2Proof.Machine.execLetoutLayerRestart c s
  | .unpin f p => Sys2Proof.Machine.execUnpin f p s
  | .streamDescriptorFetched c x slot => Sys2Proof.Machine.execStreamDescriptorFetched c x slot s
  | .streamRequestIssue c x slot => Sys2Proof.Machine.execStreamRequestIssue c x slot s
  | .readDataDelivered req err hostData => Sys2Proof.Machine.execReadDataDelivered req err hostData s
  | .storeAck store err => Sys2Proof.Machine.execStoreAck store err s
  | .mcastSegmentFetch c slot => Sys2Proof.Machine.execMcastSegmentFetch c slot s
  | .runAheadResume c x => Sys2Proof.Machine.execRunAheadResume c x s
  | .runaheadBind c x => Sys2Proof.Machine.execRunaheadBind c x s
  | .contextSwitch c x => Sys2Proof.Machine.execContextSwitch c x s
  | .atsCompletion p page a => Sys2Proof.Machine.execAtsCompletion p page a s
  | .prgResponse f pasid prgi success => Sys2Proof.Machine.execPrgResponse f pasid prgi success s
  | .atsInvalidate f page sizeLog2 => Sys2Proof.Machine.execAtsInvalidate f page sizeLog2 s
  | .xlatInvalidateStart f p => Sys2Proof.Machine.execXlatInvalidateStart f p s
  | .xlatInvalidateDone p => Sys2Proof.Machine.execXlatInvalidateDone p s
  | .doorbell f p q tail => Sys2Proof.Machine.execDoorbell f p q tail s
  | .taskDescriptorFetched p q hostData => Sys2Proof.Machine.execTaskDescriptorFetched p q hostData s
  | .taskDispatch p q => Sys2Proof.Machine.execTaskDispatch p q s
  | .taskStart c x => Sys2Proof.Machine.execTaskStart c x s
  | .taskComplete task => Sys2Proof.Machine.execTaskComplete task s
  | .cplHeadWrite f p q v => Sys2Proof.Machine.execCplHeadWrite f p q v s
  | .queueEnable f p q en => Sys2Proof.Machine.execQueueEnable f p q en s
  | .queueResume f p q => Sys2Proof.Machine.execQueueResume f p q s
  | .queueSkip f p q => Sys2Proof.Machine.execQueueSkip f p q s
  | .gateSet f g v => Sys2Proof.Machine.execGateSet f g v s
  | .gateAdd f g v => Sys2Proof.Machine.execGateAdd f g v s
  | .cfgCommit f p => Sys2Proof.Machine.execCfgCommit f p s
  | .nop c => Sys2Proof.Machine.execNop c s
  | .end_ c => Sys2Proof.Machine.execEnd c s
  | .loop c => Sys2Proof.Machine.execLoop c s
  | .vbin r => Sys2Proof.Machine.execVbin r s
  | .vun r => Sys2Proof.Machine.execVun r s
  | .vfma r => Sys2Proof.Machine.execVfma r s
  | .vred r => Sys2Proof.Machine.execVred r s
  | .vseg r => Sys2Proof.Machine.execVseg r s
  | .vscatadd r => Sys2Proof.Machine.execVscatadd r s
  | .vtopk r => Sys2Proof.Machine.execVtopk r s
  | .vsort c => Sys2Proof.Machine.execVsort c s
  | .vhist r => Sys2Proof.Machine.execVhist r s
  | .update c => Sys2Proof.Machine.execUpdate c s
  | .bind c => Sys2Proof.Machine.execBind c s
  | .unbind c => Sys2Proof.Machine.execUnbind c s
  | .rearm c => Sys2Proof.Machine.execRearm c s
  | .sample c => Sys2Proof.Machine.execSample c s
  | .move c tileError => Sys2Proof.Machine.execMove c tileError s
  | .fill c => Sys2Proof.Machine.execFill c s
  | .allreduce c => Sys2Proof.Machine.execAllreduce c s
  | .reduceScatter c => Sys2Proof.Machine.execReduceScatter c s
  | .allgather c => Sys2Proof.Machine.execAllgather c s
  | .scalePrepass c => Sys2Proof.Machine.execScalePrepass c s
  | .stepClose c => Sys2Proof.Machine.execStepClose c s
  | .wait c => Sys2Proof.Machine.execWait c s
  | .waitRelease c x => Sys2Proof.Machine.execWaitRelease c x s
  | .signal c => Sys2Proof.Machine.execSignal c s
  | .barrier c => Sys2Proof.Machine.execBarrier c s
  | .barrierRelease task => Sys2Proof.Machine.execBarrierRelease task s
  | .statRead c => Sys2Proof.Machine.execStatRead c s
  | .statSnap c => Sys2Proof.Machine.execStatSnap c s
  | .droverRequestStart d => Sys2Proof.Machine.execDroverRequestStart d s
  | .droverRequestDone d => Sys2Proof.Machine.execDroverRequestDone d s
  | .verdict p => Sys2Proof.Machine.execVerdict p s
  | .publish f p => Sys2Proof.Machine.execPublish f p s
  | .commitBaste f p => Sys2Proof.Machine.execCommitBaste f p s
  | .touch f p id => Sys2Proof.Machine.execTouch f p id s
  | .touchAll f p => Sys2Proof.Machine.execTouchAll f p s
  | .trainCounterWrite f p applied v => Sys2Proof.Machine.execTrainCounterWrite f p applied v s
  | .trainCfgWrite f p v => Sys2Proof.Machine.execTrainCfgWrite f p v s
  | .train f g => Sys2Proof.Machine.execTrain f g s
  | .disable f g => Sys2Proof.Machine.execDisable f g s
  | .recalNow f g => Sys2Proof.Machine.execRecalNow f g s
  | .trainingEnd g e => Sys2Proof.Machine.execTrainingEnd g e s
  | .noPartner g => Sys2Proof.Machine.execNoPartner g s
  | .dataFlit g hdr crc payload errs => Sys2Proof.Machine.execDataFlit g hdr crc payload errs s
  | .ctrlFlit g x errs content => Sys2Proof.Machine.execCtrlFlit g x errs content s
  | .idleFlit g x errs => Sys2Proof.Machine.execIdleFlit g x errs s
  | .nak g x errs => Sys2Proof.Machine.execNak g x errs s
  | .flitTransmit g => Sys2Proof.Machine.execFlitTransmit g s
  | .fastRetrain g => Sys2Proof.Machine.execFastRetrain g s
  | .fastRetrainComplete g lanes => Sys2Proof.Machine.execFastRetrainComplete g lanes s
  | .lpiEntry g => Sys2Proof.Machine.execLpiEntry g s
  | .lpiRefresh g => Sys2Proof.Machine.execLpiRefresh g s
  | .lpiWake w => Sys2Proof.Machine.execLpiWake w s
  | .recalStart g => Sys2Proof.Machine.execRecalStart g s
  | .recalForced g => Sys2Proof.Machine.execRecalForced g s
  | .recalComplete g => Sys2Proof.Machine.execRecalComplete g s
  | .tallyPacket p => Sys2Proof.Machine.execTallyPacket p s
  | .collectiveDone p seq => Sys2Proof.Machine.execCollectiveDone p seq s
  | .collectiveMissing p seq => Sys2Proof.Machine.execCollectiveMissing p seq s
  | .verdictWaitLimit p => Sys2Proof.Machine.execVerdictWaitLimit p s
  | .verdictTimeout p => Sys2Proof.Machine.execVerdictTimeout p s
  | .abortPacket p => Sys2Proof.Machine.execAbortPacket p s
  | .layoutCommit f p => Sys2Proof.Machine.execLayoutCommit f p s
  | .layoutForce f p => Sys2Proof.Machine.execLayoutForce f p s
  | .emaReset f p => Sys2Proof.Machine.execEmaReset f p s
  | .standby f => Sys2Proof.Machine.execStandby f s
  | .wake f => Sys2Proof.Machine.execWake f s
  | .capWrite f v => Sys2Proof.Machine.execCapWrite f v s
  | .i3cCapWrite watts => Sys2Proof.Machine.execI3cCapWrite watts s
  | .i3cRead off len => Sys2Proof.Machine.execI3cRead off len s
  | .i3cAddressAssign addr => Sys2Proof.Machine.execI3cAddressAssign addr s
  | .controlTick => Sys2Proof.Machine.execControlTick s
  | .foldDutyPeriod => Sys2Proof.Machine.execFoldDutyPeriod s
  | .foldDutyOff => Sys2Proof.Machine.execFoldDutyOff s
  | .shedAssert => Sys2Proof.Machine.execShedAssert s
  | .shedRelease => Sys2Proof.Machine.execShedRelease s
  | .supplyUndervoltage dv => Sys2Proof.Machine.execSupplyUndervoltage dv s
  | .supplyRecover dv => Sys2Proof.Machine.execSupplyRecover dv s
  | .overvoltage dv => Sys2Proof.Machine.execOvervoltage dv s
  | .supplyLoss dv => Sys2Proof.Machine.execSupplyLoss dv s
  | .inputLost => Sys2Proof.Machine.execInputLost s
  | .thermalSample dies hub hbm => Sys2Proof.Machine.execThermalSample dies hub hbm s
  | .thermalFold => Sys2Proof.Machine.execThermalFold s
  | .thermalTrip => Sys2Proof.Machine.execThermalTrip s
  | .railCurrent d => Sys2Proof.Machine.execRailCurrent d s
  | .dieIdle d => Sys2Proof.Machine.execDieIdle d s
  | .grazeEntry p => Sys2Proof.Machine.execGrazeEntry p s
  | .energySample vDv iCa => Sys2Proof.Machine.execEnergySample vDv iCa s
  | .calibration => Sys2Proof.Machine.execCalibration s
  | .learnReset f => Sys2Proof.Machine.execLearnReset f s
  | .foldReq f p on => Sys2Proof.Machine.execFoldReq f p on s
  | .heartbeat f => Sys2Proof.Machine.execHeartbeat f s
  | .give f => Sys2Proof.Machine.execGive f s
  | .takeover f => Sys2Proof.Machine.execTakeover f s
  | .heartbeatLapse => Sys2Proof.Machine.execHeartbeatLapse s
  | .ownerLinkLoss => Sys2Proof.Machine.execOwnerLinkLoss s
  | .functionAbort by_ f => Sys2Proof.Machine.execFunctionAbort by_ f s
  | .abortComplete f => Sys2Proof.Machine.execAbortComplete f s
  | .functionLevelReset f => Sys2Proof.Machine.execFunctionLevelReset f s
  | .d3hotEntry f => Sys2Proof.Machine.execD3hotEntry f s
  | .perstAssert f => Sys2Proof.Machine.execPerstAssert f s
  | .perstRelease f rate width flit => Sys2Proof.Machine.execPerstRelease f rate width flit s
  | .partitionCommit f => Sys2Proof.Machine.execPartitionCommit f s
  | .bar4Read f off len => Sys2Proof.Machine.execBar4Read f off len s
  | .bar4Write f off data poisoned => Sys2Proof.Machine.execBar4Write f off data poisoned s
  | .hostReadError r => Sys2Proof.Machine.execHostReadError r s
  | .spdmGetCertificate f slot off len => Sys2Proof.Machine.execSpdmGetCertificate f slot off len s
  | .spdmChallenge f slot nonce => Sys2Proof.Machine.execSpdmChallenge f slot nonce s
  | .spdmMeasurements f index signed nonce => Sys2Proof.Machine.execSpdmMeasurements f index signed nonce s
  | .spdmKeyExchange f slot exchange => Sys2Proof.Machine.execSpdmKeyExchange f slot exchange s
  | .spdmHeartbeat f session => Sys2Proof.Machine.execSpdmHeartbeat f session s
  | .spdmKeyUpdate f session => Sys2Proof.Machine.execSpdmKeyUpdate f session s
  | .spdmGetCsr f => Sys2Proof.Machine.execSpdmGetCsr f s
  | .spdmSetCertificate f chain => Sys2Proof.Machine.execSpdmSetCertificate f chain s
  | .doeDiscovery f index => Sys2Proof.Machine.execDoeDiscovery f index s
  | .ideKm f session stream go => Sys2Proof.Machine.execIdeKm f session stream go s
  | .lmsReservationStore ok => Sys2Proof.Machine.execLmsReservationStore ok s
  | .ideIntegrityFailure f stream => Sys2Proof.Machine.execIdeIntegrityFailure f stream s
  | .partitionFault p code => Sys2Proof.Machine.execPartitionFault p code s
  | .partitionFaultComplete p => Sys2Proof.Machine.execPartitionFaultComplete p s
  | .clear f p => Sys2Proof.Machine.execClear f p s
  | .reclaim f p => Sys2Proof.Machine.execReclaim f p s
  | .reclaimComplete p => Sys2Proof.Machine.execReclaimComplete p s
  | .mgmtWatchdog => Sys2Proof.Machine.execMgmtWatchdog s
  | .mgmtRestartComplete => Sys2Proof.Machine.execMgmtRestartComplete s
  | .patrolScrubRead addr found foregroundWrite => Sys2Proof.Machine.execPatrolScrubRead addr found foregroundWrite s
  | .scrubForce u => Sys2Proof.Machine.execScrubForce u s
  | .dramRefresh u => Sys2Proof.Machine.execDramRefresh u s
  | .onchipScrub addr found => Sys2Proof.Machine.execOnchipScrub addr found s
  | .wearManagement region worst => Sys2Proof.Machine.execWearManagement region worst s
  | .telemetrySample lost => Sys2Proof.Machine.execTelemetrySample lost s
  | .faultLogCommit => Sys2Proof.Machine.execFaultLogCommit s
  | .fltLogSelect f n => Sys2Proof.Machine.execFltLogSelect f n s
  | .nvsReadSelect f v => Sys2Proof.Machine.execNvsReadSelect f v s
  | .traceSelect f n => Sys2Proof.Machine.execTraceSelect f n s
  | .powerOn x y z pmb => Sys2Proof.Machine.execPowerOn x y z pmb s
  | .tiersReady => Sys2Proof.Machine.execTiersReady s
  | .moduleReset x y z pmb => Sys2Proof.Machine.execModuleReset x y z pmb s
  | .imageUpdate f => Sys2Proof.Machine.execImageUpdate f s
  | .imageFlashComplete => Sys2Proof.Machine.execImageFlashComplete s
  | .fuseCommit f => Sys2Proof.Machine.execFuseCommit f s
  | .takeOwnership f => Sys2Proof.Machine.execTakeOwnership f s
  | .retire f => Sys2Proof.Machine.execRetire f s
  | .recoverCommit f => Sys2Proof.Machine.execRecoverCommit f s
  | .imageWindowWrite f off bytes v => Sys2Proof.Machine.execImageWindowWrite f off bytes v s
  | .imageWindowRelease => Sys2Proof.Machine.execImageWindowRelease s
  | .unlock f => Sys2Proof.Machine.execUnlock f s
  | .relock f => Sys2Proof.Machine.execRelock f s
  | .debugExpiry => Sys2Proof.Machine.execDebugExpiry s
  | .coreHalt f c => Sys2Proof.Machine.execCoreHalt f c s
  | .coreResume f c => Sys2Proof.Machine.execCoreResume f c s
  | .coreStep f c => Sys2Proof.Machine.execCoreStep f c s
  | .settingsStore f => Sys2Proof.Machine.execSettingsStore f s
  | .settingsStoreComplete readBackOk => Sys2Proof.Machine.execSettingsStoreComplete readBackOk s
  | .clearFaults => Sys2Proof.Machine.execClearFaults s
  | .statusWord => Sys2Proof.Machine.execStatusWord s
  | .readVin => Sys2Proof.Machine.execReadVin s
  | .readIin => Sys2Proof.Machine.execReadIin s
  | .readTemperature1 => Sys2Proof.Machine.execReadTemperature1 s
  | .readPin => Sys2Proof.Machine.execReadPin s
  | .pmbusRevision => Sys2Proof.Machine.execPmbusRevision s
  | .mfrId => Sys2Proof.Machine.execMfrId s
  | .mfrModel => Sys2Proof.Machine.execMfrModel s
  | .pmbusOtherCommand code write => Sys2Proof.Machine.execPmbusOtherCommand code write s
  | .tallyOperandRead p seq block => Sys2Proof.Machine.execTallyOperandRead p seq block s
  | .tokenEvaluationDone => Sys2Proof.Machine.execTokenEvaluationDone s
  | .secCommandComplete => Sys2Proof.Machine.execSecCommandComplete s
  | .spdmGetVersion f => Sys2Proof.Machine.execSpdmGetVersion f s
  | .spdmGetCapabilities f => Sys2Proof.Machine.execSpdmGetCapabilities f s
  | .spdmNegotiateAlgorithms f => Sys2Proof.Machine.execSpdmNegotiateAlgorithms f s
  | .spdmFinish f session => Sys2Proof.Machine.execSpdmFinish f session s
  | .spdmEndSession f session => Sys2Proof.Machine.execSpdmEndSession f session s
  | .tapScan dr bits => Sys2Proof.Machine.execTapScan dr bits s

end Sys2Proof.Machine
end

