-- ==== Sys2Proof/Machine/Tick.lean ====
section
/-! DEFINITION. What happens while no command waits: a nanosecond of module time passes (R31, R38, R39, R196, R448). -/

namespace Sys2Proof.Machine

/-- A microsecond of the reasons that hold: one counter of each partition (R448). -/
def reasonTick : Act := fun s =>
  (List.range s.nParts).filterMap fun p => (firstReason (partReasons s p)).map fun r => .add ⟨.pwrThr, p, r⟩ 1

/-- Beats of the dies that are ACTIVE or in GRAZE: at most two in a nanosecond (R32); their number is open (log 1). A beat in which a
die's tracker is full is counted (R196), and so is one in which a core waits for an operand, a buffer or a fill (R112, R178, R179). -/
def beatTick : Act := fun s =>
  ((List.range 4).flatMap fun d =>
    let n := Config.freeNat (s.free + d) % 3
    if asleep s || folded s (s.partOfDie d) then []
    else .add ⟨.dieBeatCount, d, 0⟩ n :: ((if 16384 ≤ dieOutstanding s d then [Upd.add ⟨.dieReqFullBeats, d, 0⟩ n] else []) ++
      (s.cores.filter fun e => e.1 / 36 == d).flatMap fun e => (waitCounters s e.1).map fun r => Upd.add ⟨r, d, e.1 % 36⟩ n)) ++ [.draw 4]

/-- The time since the last training or recalibration goes on for a port that is UP, outside low-power idle (R366, R367). -/
def portTick : Act := fun s =>
  (List.range 6).filterMap fun g => if portUp s g then some (.port g fun y => { y with calAge := y.calAge + 1 }) else none

/-- A nanosecond (log 2). In OFF nothing runs. A partition whose wait has ended leaves GRAZE, well within the 2 microseconds of R426. -/
def tickAct : Act := fun s =>
  if s.power.off then []
  else Act.all [
    Act.of [.add ⟨.genRefTime, 0, 0⟩ 1],
    beatTick,
    grazeExit,
    portTick,
    if (s.time + 1) % 1000 = 0 then reasonTick else Act.skip] s

def idle (s : State) : Host.Outcome State Fault Refusal := perform tickAct s

end Sys2Proof.Machine
end

