-- ==== Sys2Proof/Safety.lean ====
section
/-! DEFINITION. What every state of the module keeps, in the terms of the statements. -/

namespace Sys2Proof.Machine

/-- Every listed value of a register table has its reserved bits and write-only fields at 0 (R1, R3). -/
abbrev reservedZero (t : Tbl Reg DWord) : Prop := ∀ e ∈ t, e.2 &&& e.1.name.held = e.2

/-- No register stands twice in a register table. -/
abbrev listedOnce (t : Tbl Reg DWord) : Prop := t.Pairwise fun x y => x.1 ≠ y.1

/-- The memory is in its canonical form, no register holds a reserved bit or a write-only field (R1, R3), committed or staged, and each register
stands once in its table. -/
structure State.Inv (s : State) : Prop where
  mem : s.mem.wf
  regs : reservedZero s.regs
  staged : reservedZero s.staged
  regsOnce : listedOnce s.regs
  stagedOnce : listedOnce s.staged

/-- Command i completes from s, and the state that it leaves has property P. -/
def Completes (i : Instr) (s : State) (P : State → Prop) : Prop := ∃ t, exec i s = .next t ∧ P t

/-- A write of function f to register r reaches the register's block (R472, R502). -/
abbrev Reaches (f : Fn) (r : Reg) (s : State) : Prop := busAlive s f = true ∧ answers s r.addr true = true

/-- Of the registers, only those of a list may differ. -/
def RegsBut (l : List Reg) (s t : State) : Prop := ∀ r, r ∉ l → t.reg r = s.reg r

/-- Only registers differ, and of these only those of a list. -/
def OnlyRegs (l : List Reg) (s t : State) : Prop := RegsBut l s t ∧ t = { s with regs := t.regs }

/-- The registers that a marked access of function f writes (R548). -/
abbrev errRegs (f : Fn) : List Reg := [⟨.cfgErr, f.idx, 0⟩, ⟨.cfgErrAddr, f.idx, 0⟩]

/-- Core c may run, and the word at its slot has opcode op and is instruction i of task t (R232, R233). -/
structure NextInstr (op c : Nat) (s : State) (i : HInstr) (t : Task) (w : Who) : Prop where
  run : canRun s c (s.core c).running = some t
  who : w = { p := s.partOfCore c, core := c, ctx := (s.core c).running, ps := pasidKey s (s.partOfCore c) t.q }
  word : ∃ x, fetchWord s w t = .ok x ∧ opcodeOf x = op ∧ decodeWord x = some i

/-- The context that executed has gone on to the next slot, its loops followed (R261). -/
def Advanced (w : Who) (s t : State) : Prop :=
  ((t.core w.core).ctx w.ctx).slot = ((s.core w.core).ctx w.ctx).advance.slot ∧
    ((t.core w.core).ctx w.ctx).loops = ((s.core w.core).ctx w.ctx).advance.loops

/-- The bytes of core c's local memory from byte offset off on. -/
def LocalHolds (c off : Nat) (bs : List Byte) (t : State) : Prop := ∀ k < bs.length, t.mem.get (localBase c + off + k) = bs.getD k 0

/-- Of the memory, only core c's local memory may differ. -/
def OnlyLocal (c : Nat) (s t : State) : Prop := ∀ a, (a < localBase c ∨ localBase c + 0x200000 ≤ a) → t.mem.get a = s.mem.get a

/-- The command of a vector opcode, and the work of its word. -/
def vecInstr (k : VecKind) (c : CoreIx) (tileError : Bool) : Instr :=
  match k with
  | .vbin => .vbin ⟨c, tileError⟩ | .vun => .vun ⟨c, tileError⟩ | .vfma => .vfma ⟨c, tileError⟩ | .vred => .vred ⟨c, tileError⟩
  | .vseg => .vseg ⟨c, tileError⟩ | .vscatadd => .vscatadd ⟨c, tileError⟩ | .vtopk => .vtopk ⟨c, tileError⟩ | .vsort => .vsort c
  | .vhist => .vhist ⟨c, tileError⟩
def vecRun (o : VecOp) (t : Task) (w : Who) : Run :=
  match o.kind with
  | .vbin => vbinRun o t w | .vun => vunRun o t w | .vfma => vfmaRun o t w | .vred => vredRun o t w | .vseg => vsegRun o t w
  | .vscatadd => vscataddRun o t w | .vtopk => vtopkRun o t w | .vsort => vsortRun o t w | .vhist => vhistRun o t w

/-- What the lanes of port g carry when a flit of some bytes enters its line: whole codewords and markers (R343). -/
def lineOuts (g : Nat) (bs : List Byte) (s : State) : List Out :=
  (lineSend g bs s).filterMap fun u => match u with
    | .emit o => some o
    | _ => none

/-- Port g has sent a flit of a header and payload: the flit as what it is, and its bits on the line (R343, R346). -/
def SentFlit (g h : Nat) (payload : List Byte) (what : Nat → Out) (s t : State) : Prop :=
  t.out = s.out ++ what (wholeHdr h payload) :: lineOuts g (bytesOf 8 (wholeHdr h payload) ++ payload) s

/-- The command of a REDUCE-class opcode. -/
def redInstr (k : RedKind) (c : CoreIx) : Instr :=
  match k with
  | .allreduce => .allreduce c | .reduceScatter => .reduceScatter c | .allgather => .allgather c | .scalePrepass => .scalePrepass c
  | .stepClose => .stepClose c

end Sys2Proof.Machine
end

