-- ==== Sys2Proof/Certificates/Slice0/Obligations.lean ====
section
/-! DEFINITION. The statements about the model. A statement about a command says that the command completes and what the state
then holds; `RegsBut` and the record equations beside it are its frame. -/

open Sys2Proof Sys2Proof.Machine

/-! ### The queue, reset and the invariant -/

/-- A step takes the command at the front of the queue and is that command's execution with the queue's rest (log 2). -/
def Obligations.StepRunsFrontCommand : Prop :=
  ∀ (c : Instr) (rest : List Instr) (s : State), s.pending = c :: rest → step s = exec c { s with pending := rest }

/-- No command stops the module, and none touches the commands that wait: every command answers a next state with the same queue. -/
def Obligations.CommandsLeaveQueue : Prop :=
  ∀ (c : Instr) (s : State), Completes c s fun t => t.pending = s.pending

/-- The state after reset has the invariant. -/
def Obligations.ResetInv : Prop :=
  State.reset.Inv

/-- Whatever state the module is in, a step keeps the memory's canonical form, reserved bits and write-only fields at 0 in every
register, committed and staged (R1, R3), and one entry for each register. -/
def Obligations.StepKeepsInv : Prop :=
  ∀ s t : State, s.Inv → step s = .next t → t.Inv

/-! ### Host accesses to registers -/

/-- A write to a LIVE register of its owner's partition: HOST_TRAIN_IRQ_p takes the written bits of its fields (R1), reserved bits are
ignored, and CFG_ERR.RESERVED is set exactly when one of them was written (R3). A write to BAR0 of another size than 4 or 8 bytes, or
one that is not aligned to its size, is ignored and sets CFG_ERR.ACCESS. -/
def Obligations.RegisterWrite : Prop :=
  (∀ (f : Fn) (p : PartIx) (v : DWord) (s : State), s.Inv →
    let r : Reg := ⟨.hostTrainIrq, p, 0⟩
    Reaches f r s → s.owns f p = true →
    Completes (.registerWrite f r.addr 4 v) s fun t =>
      t.reg r = v &&& r.name.mask ∧ OnlyRegs (r :: errRegs f) s t ∧
      (v.toNat % 2 ^ 32 &&& r.name.mask.toNat = v.toNat % 2 ^ 32 → OnlyRegs [r] s t) ∧
      (v.toNat % 2 ^ 32 &&& r.name.mask.toNat ≠ v.toNat % 2 ^ 32 → t.flag F.cfgErrReserved f.idx = true)) ∧
  ∀ (f : Fn) (off n : Nat) (v : DWord) (s : State), busAlive s f = true → ¬ ((n = 4 ∨ n = 8) ∧ off % n = 0) →
    Completes (.registerWrite f off n v) s fun t => t.flag F.cfgErrAccess f.idx = true ∧ OnlyRegs (errRegs f) s t

/-- While the training block of a partition is busy, a write of HOST_TRAIN_CFG_p, whose fields are all STATIC, is refused: the register
keeps its value and CFG_ERR.BUSY is set (R6, R332). While it is not busy the fields take the written value and the count of clean steps
restarts (R304). A write to a step counter while its partition is not busy loads the counter, and the next boundary starts a fresh
sequence (R299). -/
def Obligations.TrainRegisters : Prop :=
  (∀ (f : Fn) (p : PartIx) (v : Word) (s : State), s.Inv →
    let r : Reg := ⟨.hostTrainCfg, p, 0⟩
    Reaches f r s → s.owns f p = true → v.setWidth 64 &&& r.name.mask = v.setWidth 64 →
    (trainBusy s p = true →
      Completes (.trainCfgWrite f p v) s fun t => t.flag F.cfgErrBusy f.idx = true ∧ OnlyRegs (errRegs f) s t) ∧
    (trainBusy s p = false →
      Completes (.trainCfgWrite f p v) s fun t =>
        t.reg r = v.setWidth 64 ∧ t.get F.hostTrainStatusCleanCount p = 0 ∧ OnlyRegs [r, ⟨.hostTrainStatus, p, 0⟩] s t)) ∧
  ∀ (f : Fn) (p : PartIx) (applied : Bool) (v : DWord) (s : State),
    let r : Reg := ⟨if applied then .hostTrainApplied else .hostTrainStep, p, 0⟩
    Reaches f r s → s.owns f p = true → trainBusy s p = false →
    Completes (.trainCounterWrite f p applied v) s fun t =>
      t.reg r = v ∧ t.flag F.hostTrainStatusFresh p = true ∧ t.get F.redSeqNext p = 0 ∧
      OnlyRegs [r, ⟨.hostTrainStatus, p, 0⟩, ⟨.redSeq, p, 0⟩] s t

/-- A read of the low half of a 64-bit register returns that half and latches the high half for the function; a read of the high half
then returns the latched one, and a 64-bit read the whole value at once; nothing else changes (R4). A read of BAR0 of another size than 4
or 8 bytes, or one that is not aligned to its size, returns zeros and sets CFG_ERR.ACCESS (R2). A write to CFG_ERR clears the bits that it names; once bits [3:0] are 0, FIRST, OVERRUN and CFG_ERR_ADDR are 0 too. -/
def Obligations.ReadsAndErrors : Prop :=
  (∀ (f : Fn) (off : Nat) (r : Reg) (s : State), busAlive s f = true → answers s off false = true →
    regAt f off = some r → r.name.spec.width = 64 → readOk s f r = true →
    (off % 4 = 0 → Completes (.counterLowHalfRead f ⟨off, 4⟩) s fun t =>
      t.out = s.out ++ [.read f (bytesOf 4 (shown s r).toNat) false] ∧ highHalf t f off = (shown s r).toNat / 2 ^ 32 ∧
      t = { s with out := t.out, fns := t.fns } ∧ t.fn f.other = s.fn f.other) ∧
    (off % 4 = 0 → answers s (off + 4) false = true → wordAt f (off + 4) = some (r, true) → Completes (.counterLowHalfRead f ⟨off + 4, 4⟩) s fun t =>
      t = { s with out := s.out ++ [.read f (bytesOf 4 (highHalf s f off)) false] }) ∧
    (off % 8 = 0 → Completes (.counterLowHalfRead f ⟨off, 8⟩) s fun t =>
      t = { s with out := s.out ++ [.read f (bytesOf 8 (shown s r).toNat) false] })) ∧
  (∀ (f : Fn) (off n : Nat) (s : State), busAlive s f = true → ¬ ((n = 4 ∨ n = 8) ∧ off % n = 0) →
    Completes (.counterLowHalfRead f ⟨off, n⟩) s fun t =>
      t.flag F.cfgErrAccess f.idx = true ∧ t.out = s.out ++ [.read f (List.replicate n 0) false] ∧ RegsBut (errRegs f) s t ∧
      t = { s with regs := t.regs, out := t.out }) ∧
  ∀ (f : Fn) (v : Word) (s : State), s.Inv →
    let r : Reg := ⟨.cfgErr, f.idx, 0⟩
    Reaches f r s → v.toNat < 256 →
    Completes (.cfgErrWrite f v) s fun t =>
      OnlyRegs (errRegs f) s t ∧
      (s.get F.cfgErrReserved f.idx * (1 - v.toNat % 2) = t.get F.cfgErrReserved f.idx) ∧
      (s.get F.cfgErrAccess f.idx * (1 - v.toNat / 2 % 2) = t.get F.cfgErrAccess f.idx) ∧
      (s.get F.cfgErrBusy f.idx * (1 - v.toNat / 4 % 2) = t.get F.cfgErrBusy f.idx) ∧
      (s.get F.cfgErrMismatch f.idx * (1 - v.toNat / 8 % 2) = t.get F.cfgErrMismatch f.idx) ∧
      ((t.reg r).toNat % 16 = 0 → t.reg r = 0 ∧ t.reg ⟨.cfgErrAddr, f.idx, 0⟩ = 0) ∧
      ((t.reg r).toNat % 16 ≠ 0 → t.get F.cfgErrFirst f.idx = s.get F.cfgErrFirst f.idx ∧
        t.reg ⟨.cfgErrAddr, f.idx, 0⟩ = s.reg ⟨.cfgErrAddr, f.idx, 0⟩)

/-- REF_TIME takes a new value from the management owner by one 64-bit write; a 32-bit write to either half is ignored and marked. With
nothing waiting in the queue a step lets 1 ns pass (the model's choice, log 2): REF_TIME adds 1, memory, tasks and requests stay as they
are, and a port only counts the time since its last recalibration. -/
def Obligations.RefTime : Prop :=
  (∀ (f : Fn) (v : DWord) (s : State), Reaches f ⟨.genRefTimeLoad, 0, 0⟩ s → s.mgmt = f →
    (Completes (.genRefTimeLoad f 8 false v) s fun t =>
      t.reg ⟨.genRefTime, 0, 0⟩ = v ∧ RegsBut [⟨.genRefTime, 0, 0⟩] s t ∧ t = { s with regs := t.regs, sec := t.sec }) ∧
    ∀ hi, Completes (.genRefTimeLoad f 4 hi v) s fun t => t.flag F.cfgErrAccess f.idx = true ∧ OnlyRegs (errRegs f) s t) ∧
  ∀ s : State, s.pending = [] → s.power.off = false → ∃ t, step s = .next t ∧
    t.reg ⟨.genRefTime, 0, 0⟩ = s.reg ⟨.genRefTime, 0, 0⟩ + 1 ∧ t.mem = s.mem ∧ t.tasks = s.tasks ∧ t.reqs = s.reqs ∧ t.stores = s.stores ∧
    (∀ g : PortIx, t.port g = { s.port g with calAge := (t.port g).calAge }) ∧ t.pending = []

/-! ### Queues, gates and commits -/

/-- A doorbell of the partition's owner to an enabled queue sets its TAIL; a tail beyond the ring leaves TAIL and sets TAIL_ERR; one to a
disabled queue is ignored; one of another function is marked and changes nothing else (R203, R227). -/
def Obligations.Doorbell : Prop :=
  ∀ (f : Fn) (p : PartIx) (q : QueueIx) (tail : Word) (s : State), barsDead s = false → (s.fn f).perst = false →
    (s.owns f p = false → Completes (.doorbell f p q tail) s fun t =>
      t.flag F.cfgErrAccess f.idx = true ∧ OnlyRegs (errRegs f) s t) ∧
    (s.owns f p = true → partOpen s p = true → s.flag F.hostQCtrlEn p q = false → Completes (.doorbell f p q tail) s fun t => t = s) ∧
    (s.owns f p = true → partOpen s p = true → s.flag F.hostQCtrlEn p q = true →
      let far := (tail.toNat + 2 ^ 32 - s.get F.hostQHeadHead p q) % 2 ^ 32
      (far ≤ ringSize s p q → Completes (.doorbell f p q tail) s fun t =>
        t.get F.hostQTailTail p q = tail.toNat ∧ OnlyRegs [⟨.hostQTail, p, q⟩] s t) ∧
      (ringSize s p q < far → Completes (.doorbell f p q tail) s fun t =>
        t.flag F.hostQStatusTailErr p q = true ∧ OnlyRegs [⟨.hostQStatus, p, q⟩] s t))

/-- Enabling a queue that is not busy, and whose CTX is below the context count, sets its indices to 0; one whose CTX is not is not
enabled, and the write is marked MISMATCH (the model's choice, log 19); disabling a queue clears EN alone; a busy queue stays as it is, and
the write is marked (R6, R227). CPL_HEAD takes a value within the ring; a value out of range leaves it and marks the access (R229). -/
def Obligations.QueueRegisters : Prop :=
  (∀ (f : Fn) (p : PartIx) (q : QueueIx) (s : State), s.Inv →
    let r : Reg := ⟨.hostQCtrl, p, q⟩
    Reaches f r s → s.owns f p = true → s.sec.fuseState ≠ 2 →
    (s.queueTasks p q = false → s.flag F.hostQCtrlEn p q = false → s.ctxCount p ≤ s.get F.hostQCtrlCtx p q →
      Completes (.queueEnable f p q true) s fun t =>
        t.flag F.hostQCtrlEn p q = false ∧ t.flag F.cfgErrMismatch f.idx = true ∧ RegsBut (errRegs f) s t ∧
        t = { s with regs := t.regs, staged := t.staged }) ∧
    (s.queueTasks p q = false → s.flag F.hostQCtrlEn p q = false → s.get F.hostQCtrlCtx p q < s.ctxCount p →
      Completes (.queueEnable f p q true) s fun t =>
      t.flag F.hostQCtrlEn p q = true ∧ t.get F.hostQHeadHead p q = 0 ∧ t.get F.hostQTailTail p q = 0 ∧
      t.get F.hostQCplHeadCplHead p q = 0 ∧ t.get F.hostQCplTailCplTail p q = 0 ∧ t.queue p q = {} ∧
      t.stagedGet F.hostQCtrlCtx p q = s.stagedGet F.hostQCtrlCtx p q ∧
      RegsBut [r, ⟨.hostQHead, p, q⟩, ⟨.hostQTail, p, q⟩, ⟨.hostQCplHead, p, q⟩, ⟨.hostQCplTail, p, q⟩, ⟨.hostQStatus, p, q⟩] s t ∧
      t = { s with regs := t.regs, staged := t.staged, queues := t.queues }) ∧
    (s.queueTasks p q = false → Completes (.queueEnable f p q false) s fun t =>
      t.flag F.hostQCtrlEn p q = false ∧ RegsBut [r] s t ∧ t = { s with regs := t.regs, staged := t.staged }) ∧
    (s.queueTasks p q = true → s.flag F.hostQCtrlEn p q = true → Completes (.queueEnable f p q false) s fun t =>
      t.flag F.cfgErrBusy f.idx = true ∧ RegsBut (errRegs f) s t ∧ t = { s with regs := t.regs, staged := t.staged })) ∧
  ∀ (f : Fn) (p : PartIx) (q : QueueIx) (v : Word) (s : State), s.Inv →
    let r : Reg := ⟨.hostQCplHead, p, q⟩
    Reaches f r s → s.owns f p = true →
    (cplHeadBad s p q v.toNat = false → Completes (.cplHeadWrite f p q v) s fun t => t.get F.hostQCplHeadCplHead p q = v.toNat) ∧
    (cplHeadBad s p q v.toNat = true → Completes (.cplHeadWrite f p q v) s fun t =>
      t.flag F.cfgErrAccess f.idx = true ∧ OnlyRegs (errRegs f) s t)

/-- RESUME of a held queue clears HELD and drops the descriptor that was fetched, so that the ring slot is fetched again; SKIP clears HELD
too and counts the held task as skipped: HEAD moves past it where it stands there, and no gate changes. Either one, of a queue that is not
held, is ignored and sets CFG_ERR.BUSY (R204, R205). -/
def Obligations.HeldQueueReleased : Prop :=
  ∀ (f : Fn) (p : PartIx) (q : QueueIx) (s : State), s.Inv →
    let r : Reg := ⟨.hostQCtrl, p, q⟩
    Reaches f r s → s.owns f p = true → s.sec.fuseState ≠ 2 →
    (s.flag F.hostQStatusHeld p q = true → Completes (.queueResume f p q) s fun t =>
      t.flag F.hostQStatusHeld p q = false ∧ t.queue p q = { s.queue p q with held := none, heldCores := [], fetched := none } ∧
      RegsBut [⟨.hostQStatus, p, q⟩] s t ∧ t = { s with regs := t.regs, staged := t.staged, queues := t.queues }) ∧
    (s.flag F.hostQStatusHeld p q = true → ∀ i, (s.queue p q).held = some i → Completes (.queueSkip f p q) s fun t =>
      t.flag F.hostQStatusHeld p q = false ∧ (t.queue p q).held = none ∧ (t.queue p q).fetched = none ∧
      ((s.queue p q).done = [] → i < 2 ^ 32 → t.get F.hostQHeadHead p q =
        if i = s.get F.hostQHeadHead p q then (i + 1) % 2 ^ 32 else s.get F.hostQHeadHead p q) ∧
      (i ≠ s.get F.hostQHeadHead p q → (s.queue p q).done = [] → (t.queue p q).done = [i]) ∧ (∀ g : GateIx, t.gate g = s.gate g) ∧
      RegsBut [⟨.hostQStatus, p, q⟩, ⟨.hostQHead, p, q⟩] s t ∧ t = { s with regs := t.regs, staged := t.staged, queues := t.queues }) ∧
    (s.flag F.hostQStatusHeld p q = false → ∀ c ∈ [Instr.queueResume f p q, .queueSkip f p q], Completes c s fun t =>
      t.flag F.cfgErrBusy f.idx = true ∧ RegsBut (errRegs f) s t ∧ t = { s with regs := t.regs, staged := t.staged })

/-- A host write to a gate of the function's partition sets it, and one to the address for additions adds to it modulo 2^32 (R208). -/
def Obligations.GateWrites : Prop :=
  ∀ (f : Fn) (g : GateIx) (v : Word) (s : State), s.Inv → s.owns f (s.partOfGate g) = true →
    (Reaches f ⟨.hostGate, g, 0⟩ s → Completes (.gateSet f g v) s fun t =>
      t.get F.hostGateValue g = v.toNat ∧ OnlyRegs [⟨.hostGate, g, 0⟩] s t) ∧
    (Reaches f ⟨.hostGateAdd, g, 0⟩ s → Completes (.gateAdd f g v) s fun t =>
      t.get F.hostGateValue g = (s.get F.hostGateValue g + v.toNat) % 2 ^ 32 ∧ OnlyRegs [⟨.hostGate, g, 0⟩] s t)

/-- Commits of staged sets. The configuration set: refused with BUSY while a task of the partition is queued or running, marked MISMATCH
where it is inconsistent, and else its staged values become the committed ones (R224). The basted range likewise, and every granule is
clean (R307). The layout of the reduction: marked MISMATCH where it is inconsistent, and else it waits for the boundary with PENDING set
(R410). A commit that is refused changes nothing but the mark. -/
def Obligations.StagedSetsCommit : Prop :=
  ∀ (f : Fn) (p : PartIx) (s : State), s.Inv → s.partExists p = true → abortOf s p = false →
    let busy (t : State) : Prop := t.flag F.cfgErrBusy f.idx = true ∧ OnlyRegs (errRegs f) s t
    let mismatch (t : State) : Prop := t.flag F.cfgErrMismatch f.idx = true ∧ OnlyRegs (errRegs f) s t
    (Reaches f ⟨.hostCfgCommit, p, 0⟩ s →
      (s.tasksBusy p = true → Completes (.cfgCommit f p) s busy) ∧
      (s.tasksBusy p = false → cfgOk s p = false → Completes (.cfgCommit f p) s mismatch) ∧
      (s.tasksBusy p = false → cfgOk s p = true → Completes (.cfgCommit f p) s fun t =>
        t.get F.hostExecCtxCount p = s.stagedGet F.hostExecCtxCount p ∧
        (∀ q : QueueIx, t.get F.hostQCtrlCtx p q = s.stagedGet F.hostQCtrlCtx p q) ∧
        OnlyRegs (⟨.hostExec, p, 0⟩ :: (List.range 64).map fun q => ⟨.hostQCtrl, p, q⟩) s t)) ∧
    (Reaches f ⟨.hostTrainCtrl, p, 0⟩ s → s.owns f p = true →
      (trainBusy s p = true → Completes (.commitBaste f p) s busy) ∧
      (trainBusy s p = false → basteOk s p = false → Completes (.commitBaste f p) s mismatch) ∧
      (trainBusy s p = false → basteOk s p = true → Completes (.commitBaste f p) s fun t =>
        t.get F.hostTrainBasteSizeSizeLog2 p = s.stagedGet F.hostTrainBasteSizeSizeLog2 p ∧
        t.get F.hostTrainBasteBaseBase p = s.stagedGet F.hostTrainBasteBaseBase p ∧
        (t.part p).baste = [] ∧ RegsBut [⟨.hostTrainBasteSize, p, 0⟩, ⟨.hostTrainBasteBase, p, 0⟩] s t ∧
        t = { s with regs := t.regs, parts := t.parts })) ∧
    (Reaches f ⟨.redLayout, p, 0⟩ s → s.owns f p = true →
      (layoutOk s p = false → Completes (.layoutCommit f p) s mismatch) ∧
      (layoutOk s p = true → Completes (.layoutCommit f p) s fun t =>
        t.flag F.redLayoutPending p = true ∧
        (t.part p).tally.layout = some (s.stagedGet F.redShepShepLog2 p, s.stagedGet F.redShepGen p) ∧
        RegsBut [⟨.redLayout, p, 0⟩] s t ∧ t = { s with regs := t.regs, parts := t.parts }))

/-- When the partition layout changes, every queue is disabled, its registers take their reset values, and every gate is 0; a change of
an owner alone does the same in the partitions whose owner changes (R466). A change of layout also clears every tag of a tensor (R339) and
sets every step counter to 0 (R299). -/
def Obligations.PartitionCommit : Prop :=
  ∀ (f : Fn) (s : State), s.mgmt = f → Reaches f ⟨.hostPartCommit, 0, 0⟩ s → partsOk s = true →
    (∀ p ∈ partsAffected s, partBusy s p = false ∧ abortOf s p = false) →
    Completes (.partitionCommit f) s fun t =>
      t.layout = s.stagedGet F.hostPartCfgLayout ∧ t.get F.hostPartCfgOwner = s.stagedGet F.hostPartCfgOwner ∧
      (∀ (p : PartIx) (q : QueueIx) (r : RegName), s.stagedGet F.hostPartCfgLayout ≠ s.layout ∨ p.val ∈ partsAffected s →
        r ∈ [RegName.hostQBase, .hostQCplBase, .hostQCtrl, .hostQHead, .hostQTail, .hostQCplHead, .hostQCplTail, .hostQStatus, .hostQPasid] →
        t.reg ⟨r, p, q⟩ = r.reset) ∧
      (∀ g : GateIx, s.stagedGet F.hostPartCfgLayout ≠ s.layout ∨ s.partOfGate g ∈ partsAffected s → t.get F.hostGateValue g = 0) ∧
      (s.stagedGet F.hostPartCfgLayout ≠ s.layout → (∀ k : Fin 4096, t.reg ⟨.telPtag, k, 0⟩ = 0) ∧
        ∀ p : PartIx, t.reg ⟨.hostTrainStep, p, 0⟩ = 0 ∧ t.reg ⟨.hostTrainApplied, p, 0⟩ = 0) ∧
      (s.stagedGet F.hostPartCfgLayout = s.layout → t.mem = s.mem ∧ ∀ p, t.reg ⟨.hostTrainStep, p, 0⟩ = s.reg ⟨.hostTrainStep, p, 0⟩)

/-- The training controls of the partition's owner: TOUCH adds 1 to the delivery count of one tensor, TOUCH_ALL to that of every tensor
of the parameter range, and an identifier beyond the partition's range is marked (R326, R337); UNPIN waits for the boundary (R138);
EMA_RESET marks the averages for a restart (R418). PUBLISH writes the step record at the record address, where its page is mapped, with
no boundary (R300). -/
def Obligations.TrainingControls : Prop :=
  (∀ (f : Fn) (p : PartIx) (s : State), s.Inv → s.partExists p = true →
    (Reaches f ⟨.hostTrainCtrl, p, 0⟩ s → s.owns f p = true →
      (∀ id : Fin 4096,
        (id.val < tensorsOf s → Completes (.touch f p id) s fun t =>
          let r := tensorRec s p id
          t.get F.telPtagDelivery r = (s.get F.telPtagDelivery r + 1) % 2 ^ 16 ∧ t.get F.telPtagApplied r = s.get F.telPtagApplied r ∧
          OnlyRegs [⟨.telPtag, r, 0⟩] s t) ∧
        (tensorsOf s ≤ id.val → Completes (.touch f p id) s fun t => t.flag F.cfgErrAccess f.idx = true ∧ OnlyRegs (errRegs f) s t)) ∧
      (s.flag F.hostTrainParamEn p = true → Completes (.touchAll f p) s fun t =>
        ∀ i < tensorsOf s, t.get F.telPtagDelivery (tensorRec s p i) =
          (s.get F.telPtagDelivery (tensorRec s p i) +
            if s.get F.hostTrainParamFirst p ≤ i ∧ i ≤ s.get F.hostTrainParamLast p then 1 else 0) % 2 ^ 16)) ∧
    (Reaches f ⟨.telLoCtrl, p, 0⟩ s → Completes (.unpin f p) s fun t =>
      t.flag F.telLoStatusUnpinPending p = true ∧ OnlyRegs [⟨.telLoStatus, p, 0⟩] s t) ∧
    (Reaches f ⟨.redNoiseCfg, p, 0⟩ s → s.owns f p = true → Completes (.emaReset f p) s fun t =>
      (t.part p).tally.emaReset = true ∧ t = { s with parts := t.parts })) ∧
  ∀ (f : Fn) (p : PartIx) (l : Nat) (s : State), s.Inv → Reaches f ⟨.hostTrainCtrl, p, 0⟩ s → s.owns f p = true →
    s.get F.hostTrainRecAddr p ≠ 0 → (s.part p).boundary = [] → isHostLoc (l + 63) = false → s.poisonIn l 64 = none →
    let rec_ := stepRecord s p (s.get F.hostTrainStatusLastVerdict p)
    writeRange s p 0 true (s.get F.hostTrainRecAddr p * 64) false rec_ = .inl [(l, rec_)] →
    Completes (.publish f p) s fun t =>
      (∀ a, t.mem.get a = if l ≤ a ∧ a < l + 64 then rec_.getD (a - l) 0 else s.mem.get a) ∧ (t.part p).boundary = [] ∧
      t.regs = s.regs

/-! ### Translation, BAR4 and the selecting registers -/

/-- An invalidation of device translations begins with its range noted and DONE at 0, is refused while another is in progress, waits
while a read that uses a matching translation is outstanding, and ends, where the partition has no request left, with every matching
translation dropped and DONE at 1 (R183, R192). -/
def Obligations.DeviceInvalidation : Prop :=
  ∀ (f : Fn) (p : PartIx) (s : State), s.Inv → s.partExists p = true →
    (Reaches f ⟨.memXlatInv, p, 0⟩ s →
      (s.flag F.memXlatInvDone p = true → Completes (.xlatInvalidateStart f p) s fun t =>
        t.flag F.memXlatInvDone p = false ∧
        (t.part p).invRange = some (if s.flag F.memXlatInvAll p then (0, 2 ^ 56)
          else (s.get F.memXlatInvAddrAddr p * 2 ^ 16, 2 ^ Nat.max 16 (Nat.min 55 (s.get F.memXlatInvSizeLog2 p)))) ∧
        RegsBut [⟨.memXlatInv, p, 0⟩] s t ∧ t = { s with regs := t.regs, parts := t.parts }) ∧
      (s.flag F.memXlatInvDone p = false → Completes (.xlatInvalidateStart f p) s fun t =>
        t.flag F.cfgErrBusy f.idx = true ∧ OnlyRegs (errRegs f) s t)) ∧
    ∀ a n, (s.part p).invRange = some (a, n) →
      ((∃ r ∈ s.reqs, s.partOfCore r.core = p ∧ ∃ x ∈ (s.part p).tlb, rangesMeet x.va x.size a n = true ∧ rangesMeet x.loc x.size r.loc r.len = true) →
        Completes (.xlatInvalidateDone p) s fun t => t = s) ∧
      ((∀ r ∈ s.reqs, s.partOfCore r.core ≠ p) → (∀ x ∈ s.stores, s.partOfCore x.core ≠ p) → Completes (.xlatInvalidateDone p) s fun t =>
        t.flag F.memXlatInvDone p = true ∧ (t.part p).invRange = none ∧
        (∀ x, x ∈ (t.part p).tlb ↔ x ∈ (s.part p).tlb ∧ rangesMeet x.va x.size a n = false) ∧
        RegsBut [⟨.memXlatInv, p, 0⟩] s t ∧ t = { s with regs := t.regs, parts := t.parts })

/-- Host translations: an answer that grants an access is cached and ends the request; an invalidation drops every matching translation
of the function's partitions and, with no request of the function to its host memory outstanding, is answered at once; the answer to a
page request of a task that has not faulted ends the request (R184). -/
def Obligations.HostTranslation : Prop :=
  (∀ (p : PartIx) (r : AtsReq) (host z : Nat) (s : State), (s.part p).atsReqs = [r] → r.page % 4096 = 0 →
    (∃ id core, r.who = .task id core) →
    Completes (.atsCompletion p r.page (.page host z true true)) s fun t =>
      let size := 2 ^ Nat.max 12 (Nat.min 30 z)
      (t.part p).atsReqs = [] ∧
      (t.part p).ats.head? = some (r.ps, { va := r.page / size * size, size := size, loc := host / size * size, r := true, w := true }) ∧
      t = { s with parts := t.parts }) ∧
  (∀ (f : Fn) (page z : Nat) (s : State), (∀ r ∈ s.reqs, isHostLoc r.loc = false) → (∀ x ∈ s.stores, isHostLoc x.loc = false) →
    (s.fn f).invs = [] →
    Completes (.atsInvalidate f page z) s fun t =>
      (∀ p ∈ s.partsOf f, ∀ e, e ∈ (t.part p).ats ↔ e ∈ (s.part p).ats ∧ rangesMeet e.2.va e.2.size page (2 ^ z) = false) ∧
      t.out = s.out ++ [.atsInvalidateDone f page z] ∧ t.regs = s.regs ∧ t.mem = s.mem) ∧
  ∀ (f : Fn) (r : PageReq) (ok : Bool) (s : State), (s.fn f).prq = [r] → r.faulted = false →
    Completes (.prgResponse f r.pasid r.prgi ok) s fun t => (t.fn f).prq = [] ∧ t = { s with fns := t.fns }

/-- A served BAR4 read returns the memory's bytes; a served write stores its bytes and no other, or, when it arrives poisoned, poisons
every granule that it covers and stores nothing; an access that the function may not make returns zeros or is dropped, and is marked
(R463, R479). A failed host read: of a descriptor, the queue holds at its next task with code 0x1101 in the log; of data ahead of their
consumer, the request is dropped and every task runs on (R460). -/
def Obligations.HostAccesses : Prop :=
  (∀ (f : Fn) (off : Nat) (s : State), s.Inv →
    (∀ n pa, bar4Judge s f off n = .ok pa → s.stores = [] → Completes (.bar4Read f off n) s fun t =>
      t.out = s.out ++ [.read f ((List.range n).map fun k => s.mem.get (pa + k)) (s.poisonIn pa n).isSome] ∧
      t = { s with out := t.out, free := t.free }) ∧
    (∀ n m, bar4Judge s f off n = .marked m → Completes (.bar4Read f off n) s fun t =>
      t.out = s.out ++ [.read f (List.replicate n 0) false] ∧ RegsBut (errRegs f) s t ∧ t = { s with regs := t.regs, out := t.out }) ∧
    (∀ data pa, bar4Judge s f off data.length = .ok pa → s.poisonIn pa data.length = none → Completes (.bar4Write f off data false) s fun t =>
      (∀ a, t.mem.get a = if pa ≤ a ∧ a < pa + data.length then data.getD (a - pa) 0 else s.mem.get a) ∧ t = { s with mem := t.mem }) ∧
    ∀ data pa, bar4Judge s f off data.length = .ok pa → Completes (.bar4Write f off data true) s fun t =>
      (∀ k < data.length, t.mem.isPoison (pa + k) = true) ∧ ∀ a, t.mem.get a = s.mem.get a) ∧
  (∀ (p : PartIx) (q : QueueIx) (s : State), partOpen s p = true → s.flag F.hostQCtrlEn p q = true → s.flag F.hostQStatusHeld p q = false →
    (s.queue p q).fetched = none →
    Completes (.hostReadError (.fetch p q)) s fun t =>
      t.flag F.hostQStatusHeld p q = true ∧ (t.queue p q).held = some (s.queue p q).next ∧ (∃ x ∈ t.log, x.code = 0x1101)) ∧
  ∀ (c : CoreIx) (x : CtxIx) (r : Request) (s : State), s.reqs = [r] → r.core = c → r.ctx = x → isHostLoc r.loc = true → reached s r = false →
    Completes (.hostReadError (.stream c x)) s fun t => t.reqs = [] ∧ t.tasks = s.tasks ∧ t.regs = s.regs ∧ t.mem = s.mem ∧ t.log = s.log

/-- A write of a selecting register sets it for the writing function and fills that function's view alone: of the fault log (R494,
R547), of the settings memory (R540) and, at D1 and above, of the trace (R523). -/
def Obligations.ViewSelection : Prop :=
  ∀ (f : Fn) (n : Word) (s : State), s.Inv →
    (Reaches f ⟨.fltLogSel, f.idx, 0⟩ s → Completes (.fltLogSelect f n) s fun t =>
      t.reg ⟨.fltLogSel, f.idx, 0⟩ = n.setWidth 64 ∧ (t.fn f).logView = logView s f n.toNat ∧ t.fn f.other = s.fn f.other ∧
      RegsBut [⟨.fltLogSel, f.idx, 0⟩] s t ∧ t = { s with regs := t.regs, fns := t.fns, log := t.log }) ∧
    (Reaches f ⟨.nvsRdAddr, f.idx, 0⟩ s → n.toNat % 256 = 0 → n.toNat < 2 ^ 23 → Completes (.nvsReadSelect f n) s fun t =>
      t.reg ⟨.nvsRdAddr, f.idx, 0⟩ = n.setWidth 64 ∧
      (t.fn f).nvsView = (if 0x300000 ≤ n.toNat ∧ n.toNat < 0x310000 ∨ 0x350000 ≤ n.toNat then List.replicate 256 0 else nvsAt s n.toNat 256) ∧
      t.fn f.other = s.fn f.other ∧ RegsBut [⟨.nvsRdAddr, f.idx, 0⟩] s t ∧ t = { s with regs := t.regs, fns := t.fns }) ∧
    (Reaches f ⟨.dbgTraceSel, f.idx, 0⟩ s → 1 ≤ s.get F.dbgLevelCur → s.sec.traceCount ≤ n.toNat → Completes (.traceSelect f n) s fun t =>
      t.reg ⟨.dbgTraceSel, f.idx, 0⟩ = n.setWidth 64 ∧ (t.fn f).traceView = List.replicate 16 0 ∧ t.fn f.other = s.fn f.other ∧
      RegsBut [⟨.dbgTraceSel, f.idx, 0⟩] s t ∧ t = { s with regs := t.regs, fns := t.fns })

/-! ### Ownership, aborts, resets and partition faults -/

/-- The management commands: HEARTBEAT and GIVE of the owner and TAKEOVER of the other function are done and LAST says so; any other
sender is refused, marked, and the owner stays (R467, R468). A lapse of the owner's heartbeat or of its link sets LAPSED (R469); the
lost link shows in HOST_PORT_STATUS. -/
def Obligations.Management : Prop :=
  (∀ (f : Fn) (s : State), s.Inv → Reaches f ⟨.hostMgmtCmd, 0, 0⟩ s →
    (mgmtOk s f .heartbeat = true → Completes (.heartbeat f) s fun t =>
      (t.fn f).hbLate = false ∧ t.get F.hostMgmtLast = 1 ∧ t.mgmt = s.mgmt ∧ RegsBut [⟨.hostMgmt, 0, 0⟩] s t ∧
      t = { s with regs := t.regs, fns := t.fns }) ∧
    (mgmtOk s f .give = true → Completes (.give f) s fun t =>
      t.mgmt = f.other ∧ t.flag F.hostMgmtLapsed = false ∧ t.get F.hostMgmtLast = 1 ∧ RegsBut [⟨.hostMgmt, 0, 0⟩] s t ∧
      t = { s with regs := t.regs, fns := t.fns }) ∧
    (mgmtOk s f .takeover = true → Completes (.takeover f) s fun t =>
      t.mgmt = f ∧ t.flag F.hostMgmtLapsed = false ∧ t.get F.hostMgmtLast = 1 ∧ RegsBut [⟨.hostMgmt, 0, 0⟩] s t ∧
      t = { s with regs := t.regs, fns := t.fns }) ∧
    (mgmtOk s f .takeover = false → Completes (.takeover f) s fun t =>
      t.mgmt = s.mgmt ∧ t.get F.hostMgmtLast = 2 ∧ t.flag F.cfgErrAccess f.idx = true ∧
      OnlyRegs (⟨.hostMgmt, 0, 0⟩ :: errRegs f) s t)) ∧
  ∀ s : State,
    (s.get F.hostMgmtHbMs ≠ 0 → (s.fn s.mgmt).hbLate = false → Completes .heartbeatLapse s fun t =>
      t.flag F.hostMgmtLapsed = true ∧ (t.fn s.mgmt).hbLate = true ∧ RegsBut [⟨.hostMgmt, 0, 0⟩] s t ∧ t.mem = s.mem) ∧
    (s.flag F.hostPortStatusUp s.mgmt.idx = true → Completes .ownerLinkLoss s fun t =>
      t.flag F.hostMgmtLapsed = true ∧ t.reg ⟨.hostPortStatus, s.mgmt.idx, 0⟩ = 0 ∧
      RegsBut [⟨.hostMgmt, 0, 0⟩, ⟨.hostPortStatus, s.mgmt.idx, 0⟩] s t ∧ t.mem = s.mem)

/-- An abort: a write of GO sets BUSY and stops the function's partitions, a partition whose verdict has come only once its boundary is
complete (R298), or, where the function has no partition or the module is asleep, sets DONE at once; its completion leaves no task of the function, every queue of its partitions disabled, every gate of them 0, BUSY at 0 and DONE at
1 (R470). -/
def Obligations.FunctionAbort : Prop :=
  (∀ (by_ f : Fn) (s : State), s.Inv → Reaches by_ ⟨.hostAbort, f.idx, 0⟩ s → (by_ = f ∨ s.mgmt = by_) →
    s.flag F.hostAbortStatusBusy f.idx = false →
    (asleep s = false → s.partsOf f ≠ [] → Completes (.functionAbort by_ f) s fun t =>
      t.flag F.hostAbortStatusBusy f.idx = true ∧
      (∀ p ∈ s.partsOf f, verdictWaits s p = false → (t.part p).draining = true ∧ (t.part p).tally.list = []) ∧
      (∀ p ∈ s.partsOf f, verdictWaits s p = true → (t.part p).abortWaits = true ∧ (t.part p).tally = (s.part p).tally) ∧
      t.tasks = s.tasks ∧ t.mem = s.mem) ∧
    (asleep s = true ∨ s.partsOf f = [] → Completes (.functionAbort by_ f) s fun t =>
      t.flag F.hostAbortStatusDone f.idx = true ∧ RegsBut [⟨.hostAbortStatus, f.idx, 0⟩] s t ∧ t.mem = s.mem)) ∧
  ∀ (f : Fn) (s : State), abortReady s f = true → s.deferred = [] → s.power.standbyPending = false →
    Completes (.abortComplete f) s fun t =>
      t.flag F.hostAbortStatusBusy f.idx = false ∧ t.flag F.hostAbortStatusDone f.idx = true ∧
      (∀ x ∈ t.tasks, x.p ∉ s.partsOf f) ∧ (∀ p ∈ s.partsOf f, ∀ q : QueueIx, t.flag F.hostQCtrlEn p q = false) ∧
      (∀ g : GateIx, s.partOfGate g ∈ s.partsOf f → t.get F.hostGateValue g = 0) ∧ t.mem = s.mem

/-- A Function Level Reset of a function with nothing to abort resets its configuration at once, and one of a function at work waits for
its abort; D3hot of an idle function is entered at once; a port held in reset is down until the pin rises and its link trains (R471,
R560). -/
def Obligations.FunctionResets : Prop :=
  ∀ (f : Fn) (s : State),
    (s.flag F.hostAbortStatusBusy f.idx = false → asleep s = true ∨ s.partsOf f = [] →
      Completes (.functionLevelReset f) s fun t =>
        (t.fn f).msix = [] ∧ (t.fn f).msixEnable = false ∧ (∀ r ∈ errRegs f, t.reg r = 0) ∧
        RegsBut (⟨.hostAbortStatus, f.idx, 0⟩ :: errRegs f) s t ∧ t.mem = s.mem) ∧
    (s.flag F.hostAbortStatusBusy f.idx = false → asleep s = false → s.partsOf f ≠ [] →
      Completes (.functionLevelReset f) s fun t =>
        t.flag F.hostAbortStatusBusy f.idx = true ∧ t.deferred = s.deferred ++ [.reset f] ∧ t.tasks = s.tasks ∧ t.mem = s.mem) ∧
    (ownsTasks s f = false → s.flag F.hostAbortStatusBusy f.idx = false → Completes (.d3hotEntry f) s fun t =>
      (t.fn f).d3hot = true ∧ t = { s with fns := t.fns }) ∧
    ((s.fn f).perst = false → Completes (.perstAssert f) s fun t =>
      (t.fn f).perst = true ∧ t.reg ⟨.hostPortStatus, f.idx, 0⟩ = 0 ∧ t.mem = s.mem) ∧
    ∀ rate width flit, (s.fn f).perst = true → asleep s = false → 3 ≤ s.get F.genStartupStage →
      Completes (.perstRelease f rate width flit) s fun t =>
        (t.fn f).perst = false ∧ t.flag F.hostPortStatusUp f.idx = true ∧ t.get F.hostPortStatusRate f.idx = rate % 8 ∧
        t.get F.hostPortStatusWidth f.idx = width % 16 ∧ t.flag F.hostPortStatusFlit f.idx = (flit || rate == 6) ∧
        RegsBut [⟨.hostPortStatus, f.idx, 0⟩] s t ∧ t = { s with regs := t.regs, fns := t.fns }

/-- A partition fault sets FAULTED with its code and stops the partition; the end of its handling leaves the partition without tasks,
its queues disabled and its gates 0, and the fault in the log (R482); CLEAR and RECLAIM of the owner then act (R484), RECLAIM leaving
zeros, free of poison, in the partition's local memories and die buffers and every other byte as it was. -/
def Obligations.PartitionFault : Prop :=
  ∀ (p : PartIx) (s : State),
    (∀ code : BitVec 16, s.partExists p = true → asleep s = false → s.flag F.fltPartStatusFaulted p = false →
      Completes (.partitionFault p code) s fun t =>
        t.flag F.fltPartStatusFaulted p = true ∧ t.get F.fltPartStatusCode p = code.toNat ∧ (t.part p).draining = true ∧
        (t.part p).faultPending.isSome = true ∧ t.tasks = s.tasks ∧ t.mem = s.mem) ∧
    (∀ r, (s.part p).faultPending = some r → drained s p = true → Completes (.partitionFaultComplete p) s fun t =>
      (t.part p).faultPending = none ∧ (∀ x ∈ t.tasks, x.p ≠ p) ∧ (∀ q : QueueIx, t.flag F.hostQCtrlEn p q = false) ∧
      (∀ g : GateIx, s.partOfGate g = p → t.get F.hostGateValue g = 0) ∧ (∃ x ∈ t.log, x.code = r.code) ∧ t.mem = s.mem) ∧
    (∀ f, s.Inv → Reaches f ⟨.fltPartCtrl, p, 0⟩ s → s.owns f p = true → s.flag F.fltPartStatusFaulted p = true →
      ((s.part p).faultPending = none → Completes (.clear f p) s fun t =>
        t.flag F.fltPartStatusFaulted p = false ∧ RegsBut [⟨.fltPartStatus, p, 0⟩] s t ∧ t = { s with regs := t.regs, parts := t.parts }) ∧
      Completes (.reclaim f p) s fun t => t.flag F.fltPartStatusReclaiming p = true ∧ OnlyRegs [⟨.fltPartStatus, p, 0⟩] s t) ∧
    (s.flag F.fltPartStatusReclaiming p = true → (s.part p).clearDue = false → Completes (.reclaimComplete p) s fun t =>
      t.flag F.fltPartStatusReclaiming p = false ∧
      (∀ a, let own := (∃ d, placeOf a = .buffer d ∧ s.partOfDie d = p) ∨ (∃ c, placeOf a = .localMem c ∧ s.partOfCore c = p)
        (own → t.mem.get a = 0 ∧ t.mem.isPoison a = false) ∧ (¬ own → t.mem.get a = s.mem.get a)) ∧
      RegsBut [⟨.fltPartStatus, p, 0⟩] s t)

/-! ### Error checks and background work -/

/-- Scrub reads: an enabled patrol read of an awake tier counts a corrected error of the serving unit, poisons the granule of an
uncorrectable one, and changes no byte (R490); an on-chip scrub does the same without the schedule (R489); a schedule that falls behind
is forced (R490); a refresh changes nothing (R489). Background work of the hub: a lost telemetry sample is counted (R496); wear
management reports a region's wear in percent (R526); due fault records go to the settings memory and are counted (R487); the management
core restarts after its watchdog, with code 0x1030 in the log, and runs again (R488). -/
def Obligations.Background : Prop :=
  (∀ (a : Nat) (s : State), s.Inv →
    (∀ w, s.flag F.fltScrubCfgEn = true → isTier a = true → tierAwake s a = true → s.mem.isPoison a = false →
      (Completes (.patrolScrubRead a .uncorrectable w) s fun t => t.mem.isPoison a = true ∧ ∀ b, t.mem.get b = s.mem.get b) ∧
      (Completes (.patrolScrubRead a .correctable w) s fun t =>
        t.reg (ceReg (ceUnitOf s a)) = s.reg (ceReg (ceUnitOf s a)) + 1 ∧ t.mem = s.mem)) ∧
    ((∃ d, placeOf a = .buffer d) ∨ (∃ c, placeOf a = .localMem c) → asleep s = false → s.mem.isPoison a = false →
      Completes (.onchipScrub a .uncorrectable) s fun t => t.mem.isPoison a = true ∧ ∀ b, t.mem.get b = s.mem.get b) ∧
    (∀ u, ceIx u < 48 → s.flag F.fltScrubCfgEn = true → asleep s = false → Completes (.scrubForce u) s fun t =>
      t.flag F.fltScrubStatusForced = true ∧ t.flag F.fltScrubStatusBehind = true ∧ RegsBut [⟨.fltScrubStatus, 0, 0⟩] s t ∧
      t = { s with regs := t.regs, ce := t.ce }) ∧
    ∀ u, Completes (.dramRefresh u) s fun t => t = s) ∧
  ∀ s : State,
    (Completes (.telemetrySample true) s fun t =>
      t.reg ⟨.fltTelDrops, 0, 0⟩ = s.reg ⟨.fltTelDrops, 0, 0⟩ + 1 ∧ OnlyRegs [⟨.fltTelDrops, 0, 0⟩] s t) ∧
    (∀ (r : Fin 4) (worst : Nat), s.nvs.job = none → s.sec.lmsStoring = false → s.power.off = false → worst < 90000 →
      Completes (.wearManagement r worst) s fun t =>
        t.get (wearFld r) = worst / 1000 ∧ tget t.nvs.worn r.val 0 = worst ∧ RegsBut [⟨.nvsWear, 0, 0⟩] s t ∧
        t = { s with regs := t.regs, nvs := t.nvs }) ∧
    (∀ d, s.nvs.due = [d] → s.nvs.lastCommit = none → s.nvs.hour = [] → s.nvs.job = none → s.sec.lmsStoring = false → s.power.off = false →
      Completes .faultLogCommit s fun t =>
        t.nvs.due = [] ∧ t.nvs.lastCommit = some s.time ∧
        t.reg ⟨.nvsFlogCount, 0, 0⟩ = s.reg ⟨.nvsFlogCount, 0, 0⟩ + 1 ∧ RegsBut [⟨.nvsFlogCount, 0, 0⟩, ⟨.fltNvSkipped, 0, 0⟩] s t ∧ t.mem = s.mem) ∧
    (s.power.off = false → s.sec.restarting = false → s.nvs.job = none → Completes .mgmtWatchdog s fun t =>
      t.sec.restarting = true ∧ (∃ x ∈ t.log, x.code = 0x1030) ∧ t.mem = s.mem ∧ t.tasks = s.tasks) ∧
    Completes .mgmtRestartComplete s fun t => t.sec.restarting = false ∧ t = { s with sec := t.sec }

/-! ### Power -/

/-- A cap or shed limit as it is written lies between 300 and 1,500 W (R428, R435); the cap of the management owner (R430), that of the
rack, once the I3C target has its address (R434), and the shed pin (R435) set the effective limit to the least of what is in force, and
clamping shows in PWR_STATUS. -/
def Obligations.Caps : Prop :=
  ∀ s : State, s.Inv →
    let l : List Reg := [⟨.pwrLimits, 0, 0⟩, ⟨.pwrStatus, 0, 0⟩]
    let least (t : State) : Nat := min (min (t.get F.pwrLimitsI3cCapW) (t.get F.pwrCapHostCapW))
      (min (if supplyOn t = true then supplyLimit t else 1500) (if t.flag F.pwrShedPin = true then t.get F.pwrShedShedW else 1500))
    (∀ (f : Fn) (v : Word), Reaches f ⟨.pwrCapHost, 0, 0⟩ s → s.mgmt = f → v.toNat < 2048 → Completes (.capWrite f v) s fun t =>
      t.get F.pwrCapHostCapW = max 300 (min 1500 v.toNat) ∧ t.get F.pwrLimitsEffectiveW = least t ∧
      (v.toNat < 300 ∨ 1500 < v.toNat → t.flag F.pwrStatusClamped = true) ∧
      RegsBut (⟨.pwrCapHost, 0, 0⟩ :: l) s t ∧ t.mem = s.mem ∧ t.tasks = s.tasks) ∧
    (∀ w : BitVec 16, s.power.off = false → s.power.i3cAddr.isSome = true → Completes (.i3cCapWrite w) s fun t =>
      t.get F.pwrLimitsI3cCapW = max 300 (min 1500 w.toNat) ∧ t.get F.pwrLimitsEffectiveW = least t ∧
      (w.toNat < 300 ∨ 1500 < w.toNat → t.flag F.pwrStatusClamped = true) ∧ RegsBut l s t ∧ t.mem = s.mem ∧ t.tasks = s.tasks) ∧
    (s.flag F.pwrShedPin = false → s.power.off = false → Completes .shedAssert s fun t =>
      t.flag F.pwrShedPin = true ∧ t.flag F.pwrStatusShedding = true ∧ t.get F.pwrLimitsEffectiveW = least t ∧
      (asleep s = false → ∀ d : DieIx, folded s (s.partOfDie d) = false → t.get F.dieOpStatusOpTgt d = 0) ∧
      t.mem = s.mem ∧ t.tasks = s.tasks) ∧
    (s.flag F.pwrShedPin = true → Completes .shedRelease s fun t =>
      t.flag F.pwrShedPin = false ∧ t.flag F.pwrStatusShedding = false ∧ t.get F.pwrLimitsEffectiveW = least t ∧
      t.power.shedHold = false ∧ RegsBut (⟨.pwrShed, 0, 0⟩ :: l) s t ∧ t.mem = s.mem ∧ t.tasks = s.tasks)

/-- The input: between 58 V and 64 V every partition folds, save one whose fault or abort is being handled, with code 0x6001 in the log;
half a volt above 64 V again those that nothing else folds are no longer folded; above 80 V code 0x6002 is logged; beyond either bound the module enters STANDBY
with every partition FAULTED and code 0x6008; a lost input turns it OFF (R423, R427). -/
def Obligations.Supply : Prop :=
  ∀ (dv : Nat) (s : State), asleep s = false →
    (580 ≤ dv → dv < 640 → s.power.causes = [] → Completes (.supplyUndervoltage dv) s fun t =>
      t.get F.pwrInputVInDv = dv ∧ t.flag F.pwrStatusSupplyFault = true ∧ (∃ x ∈ t.log, x.code = 0x6001) ∧
      (∀ p < s.nParts, (s.part p).faultPending = none → abortOf s p = false → folded t p = true) ∧ t.mem = s.mem ∧ t.tasks = s.tasks) ∧
    (645 ≤ dv → dv ≤ 800 → s.power.causes = [.supply] → Completes (.supplyRecover dv) s fun t =>
      t.get F.pwrInputVInDv = dv ∧ t.power.causes = [] ∧
      (∀ p < s.nParts, partCtl s F.pwrPartFoldReq p = 0 → folded t p = false) ∧ t.mem = s.mem ∧ t.tasks = s.tasks) ∧
    (800 < dv → dv ≤ 840 → s.power.overvolt = false → Completes (.overvoltage dv) s fun t =>
      t.get F.pwrInputVInDv = dv ∧ t.power.overvolt = true ∧ (∃ x ∈ t.log, x.code = 0x6002) ∧ t.mem = s.mem ∧ t.tasks = s.tasks) ∧
    (dv < 580 ∨ 840 < dv ∧ dv < 1024 → s.power.inputLoss = false → s.deferred = [] → Completes (.supplyLoss dv) s fun t =>
      t.get F.pwrInputVInDv = dv ∧ t.get F.pwrStateModule = 4 ∧
      (∀ p < s.nParts, t.flag F.fltPartStatusFaulted p = true ∧ t.get F.fltPartStatusCode p = 0x6008) ∧
      (∃ x ∈ t.log, x.code = 0x6008) ∧ t.tasks = [] ∧ t.mem = {}) ∧
    Completes .inputLost s fun t =>
      t.power.off = true ∧ t.power.lostInput = true ∧ t.nvs.job = none ∧ t.sec.job = none ∧ t.tasks = [] ∧ t.mem = {}

/-- Temperatures: a sample shows in every temperature register; the thermal fold folds every partition, save one whose fault or abort is
being handled, with code 0x6003; the trip enters STANDBY with every partition FAULTED with code 0x6004 (R446, R561). -/
def Obligations.Temperatures : Prop :=
  ∀ s : State, asleep s = false →
    (∀ dies hub hbm, Completes (.thermalSample dies hub hbm) s fun t =>
      (∀ d : DieIx, t.get F.pwrTempT d = min 4095 (dies.getD d 0)) ∧ t.get F.pwrTempHubT = min 4095 hub ∧
      (∀ k : Fin 32, t.get F.pwrHbmTempT k = min 4095 (hbm.getD k 0)) ∧ t.mem = s.mem ∧ t.tasks = s.tasks) ∧
    (s.power.causes = [] → Completes .thermalFold s fun t =>
      t.flag F.pwrStatusThermal = true ∧ (∃ x ∈ t.log, x.code = 0x6003) ∧
      (∀ p < s.nParts, (s.part p).faultPending = none → abortOf s p = false → folded t p = true) ∧ t.mem = s.mem ∧ t.tasks = s.tasks) ∧
    (s.power.tripped = false → s.deferred = [] → Completes .thermalTrip s fun t =>
      t.power.tripped = true ∧ t.get F.pwrStateModule = 4 ∧
      (∀ p < s.nParts, t.flag F.fltPartStatusFaulted p = true ∧ t.get F.fltPartStatusCode p = 0x6004) ∧ t.tasks = [] ∧ t.mem = {})

/-- DIE_d_DROOP_COUNT adds 1 at the start of each droop event and saturates; no event changes anything else but telemetry (R35). -/
def Obligations.DroopOnlyCounted : Prop :=
  ∀ (d : DieIx) (depth : Nat) (s : State),
    (s.power.droop.contains d.val = false → 10 < depth → s.get F.dieDroopCfgThreshMv d < depth → asleep s = false →
      Completes (.droopEventStart d depth) s fun t =>
        (t.reg ⟨.dieDroopCount, d, 0⟩).toNat = min ((s.reg ⟨.dieDroopCount, d, 0⟩).toNat + 1) (2 ^ 64 - 1) ∧
        RegsBut [⟨.dieDroopCount, d, 0⟩] s t ∧ t = { s with regs := t.regs, power := { s.power with droop := d.val :: s.power.droop } }) ∧
    Completes (.droopEventEnd d) s fun t =>
      d.val ∉ t.power.droop ∧ t = { s with power := { s.power with droop := t.power.droop } }

/-- Operating points: a move ends at its target (R33); a rail current above its limit lowers the die's ceiling by one point and the die
to it, and a die without a task is idle (R436); a parked partition grazes with its dies at OP_0 (R440). Fold-duty runs while it is on: a
period begins with the duty of R441, and its off part pauses the module. LEARN_RESET forgets every learned figure (R437); FOLD_REQ of a
partition's owner takes the written value and changes nothing else until the control tick (R452; ControlTick says what it does then). -/
def Obligations.DiesAndFolding : Prop :=
  (∀ (d : DieIx) (s : State),
    (s.flag F.dieOpStatusMoving d = true → Completes (.opMoveComplete d) s fun t =>
      t.get F.dieOpStatusOpCur d = s.get F.dieOpStatusOpTgt d ∧ t.get F.dieOpStatusOpTgt d = s.get F.dieOpStatusOpTgt d ∧
      t.flag F.dieOpStatusMoving d = false ∧ OnlyRegs [⟨.dieOpStatus, d, 0⟩] s t) ∧
    (asleep s = false → tget s.power.ceilR d.val 15 ≤ 15 → Completes (.railCurrent d) s fun t =>
      tget t.power.ceilR d.val 15 = tget s.power.ceilR d.val 15 - 1 ∧
      t.get F.dieOpStatusOpTgt d = min (tget s.power.ceilR d.val 15 - 1) (s.get F.dieOpStatusOpTgt d) ∧ t.mem = s.mem ∧ t.tasks = s.tasks) ∧
    (dieTasks s d = [] → Completes (.dieIdle d) s fun t => d.val ∈ t.power.idle ∧ t = { s with power := t.power }) ∧
    ∀ p : PartIx, s.partExists p = true → partPower s p = 0 → asleep s = false → partCtl s F.pwrPartGrazeEn p = 1 → parked s p = true →
      Completes (.grazeEntry p) s fun t =>
        partPower t p = 1 ∧ (∀ d ∈ s.diesOf p, t.get F.dieOpStatusOpTgt d = 0) ∧ t.mem = s.mem ∧ t.tasks = s.tasks) ∧
  ∀ s : State, s.Inv →
    (s.power.dutyOn = true → asleep s = false →
      (Completes .foldDutyPeriod s fun t =>
        t.get F.pwrFoldDuty = dutyFor s ∧ t.power.offPart = decide (dutyFor s = 0) ∧ t.power.shedHold = false ∧ t.mem = s.mem ∧ t.tasks = s.tasks) ∧
      (s.get F.pwrFoldDuty < 64 → Completes .foldDutyOff s fun t =>
        t.power.offPart = true ∧ (∀ p, t.powerOk p = false) ∧ t = { s with power := t.power })) ∧
    (∀ f, Reaches f ⟨.pwrCtrl, 0, 0⟩ s → s.mgmt = f → Completes (.learnReset f) s fun t =>
      t.power.learned = [] ∧ t = { s with power := t.power }) ∧
    ∀ (f : Fn) (p : PartIx) (on : Bool), Reaches f ⟨.pwrPart, p, 0⟩ s → s.owns f p = true → Completes (.foldReq f p on) s fun t =>
      t.flag F.pwrPartFoldReq p = on ∧ OnlyRegs [⟨.pwrPart, p, 0⟩] s t

/-- The control tick sets the ramped limit and the target from the effective limit while the module is not folded (R431, R439), leaves no
die of an unfolded partition above its partition's MAX_OP, folds a partition whose FOLD_REQ is set and that nothing holds awake, and leaves
no partition folded for which no cause is left (R442, R452). -/
def Obligations.ControlTick : Prop :=
  ∀ s : State, asleep s = false → s.power.off = false → Completes .controlTick s fun t =>
    let e := 10 * (effLimit s).1
    let r := s.get F.pwrCtrlRampWPerMs
    (allFolded s = false → allFolded t = false → t.power.rampDw = (if r = 0 then e else min e (s.power.rampDw + r)) ∧
      t.power.targetDw = t.power.rampDw - 10 * s.get F.pwrCtrlMarginW) ∧
    (∀ d : DieIx, folded t (t.partOfDie d) = false → t.get F.dieOpStatusOpTgt d ≤ s.get F.pwrPartMaxOp (s.partOfDie d)) ∧
    (∀ p < s.nParts, s.flag F.pwrPartFoldReq p = true → haltIn s p = false → (s.part p).faultPending = none → abortOf s p = false →
      folded t p = true) ∧
    (∀ p < s.nParts, s.flag F.pwrPartFoldReq p = false → s.power.causes = [] → s.get F.pwrFoldFoldW ≤ (effLimit s).1 → folded t p = false) ∧
    t.mem = s.mem ∧ t.tasks = s.tasks

/-- Measurement: a sample shows in PWR_INPUT and adds its energy to PWR_INPUT_UJ; the calibration factor stays within its limits (R449).
The sideband buses: once the I3C target has its address, which it takes from the controller, a read of offsets 0x00 to 0x09 answers the cap, the effective limit, the average power, the state word and the
hottest die (R434), and a read of the energy the whole counter; without an address it answers nothing; PMBus answers each of its commands from
the power registers, and any other command sets CML until CLEAR_FAULTS (R563). -/
def Obligations.MeasurementAndSideband : Prop :=
  (∀ s : State, s.power.off = false →
    (∀ v i, Completes (.energySample v i) s fun t =>
      t.get F.pwrInputVInDv = min 1023 v ∧ t.get F.pwrInputIInCa = min 4095 i ∧
      t.reg ⟨.pwrInputUj, 0, 0⟩ = s.reg ⟨.pwrInputUj, 0, 0⟩ + BitVec.ofNat 64 ((s.power.ujRem + v * i) / 100) ∧
      t.power.ujRem = (s.power.ujRem + v * i) % 100 ∧
      RegsBut [⟨.pwrInput, 0, 0⟩, ⟨.pwrInputUj, 0, 0⟩, ⟨.pwrInputW, 0, 0⟩, ⟨.pwrLimits, 0, 0⟩] s t ∧
      t = { s with regs := t.regs, power := t.power, free := t.free }) ∧
    Completes .calibration s fun t =>
      0x3F4CCCCD ≤ t.get F.pwrCalK ∧ t.get F.pwrCalK ≤ 0x3FA00000 ∧ t.mem = s.mem ∧ t.tasks = s.tasks) ∧
  ∀ s : State, s.power.off = false →
    (s.power.i3cAddr.isSome = true → Completes (.i3cRead 0 10) s fun t =>
      t.out = s.out ++ [.i3c (List.flatten [bytesOf 2 (s.get F.pwrLimitsI3cCapW), bytesOf 2 (s.get F.pwrLimitsEffectiveW),
        bytesOf 2 (s.get F.pwrInputWAvg1msW),
        bytesOf 2 (s.get F.pwrStateModule + 16 * s.get F.pwrLimitsBinding + 256 * i3cFlags s), bytesOf 2 (hottest s)])] ∧
      t.regs = s.regs ∧ t.mem = s.mem) ∧
    (∀ off len, s.power.i3cAddr = none → Completes (.i3cRead off len) s fun t => t = s) ∧
    (s.power.i3cAddr.isSome = true → Completes (.i3cRead 0x10 8) s fun t => t.out = s.out ++ [.i3c (bytesOf 8 (s.reg ⟨.pwrInputUj, 0, 0⟩).toNat)] ∧ t.regs = s.regs ∧ t.mem = s.mem) ∧
    (∀ a, Completes (.i3cAddressAssign a) s fun t => t.power.i3cAddr = some a.toNat ∧ t = { s with power := t.power }) ∧
    (∀ e ∈ [(Instr.statusWord, bytesOf 2 (statusWord s)), (.readVin, bytesOf 2 (linear11 (s.get F.pwrInputVInDv) 10)),
        (.readIin, bytesOf 2 (linear11 (s.get F.pwrInputIInCa) 100)), (.readTemperature1, bytesOf 2 (linear11 (hottest s) 8)),
        (.readPin, bytesOf 2 (linear11 (s.get F.pwrInputWAvg1msW) 1)), (.pmbusRevision, [0x33]),
        (.mfrId, [0x4C, 0x45, 0x4D, 0x52, 0x41, 0x4D]), (.mfrModel, [0x54, 0x53, 0x47, 0x2D, 0x33, 0x32, 0x37, 0x32])],
      Completes e.1 s fun t => t = { s with out := s.out ++ [.pmbus e.2] }) ∧
    (∀ code w, (code.toNat ∉ [0x03, 0x79, 0x88, 0x89, 0x8D, 0x97, 0x98, 0x99, 0x9A] ∨ w = true ∧ code.toNat ≠ 0x03) →
      Completes (.pmbusOtherCommand code w) s fun t => t.power.cml = true ∧ t = { s with power := t.power }) ∧
    Completes .clearFaults s fun t => t.power.cml = false ∧ t = { s with power := t.power }

/-! ### Start-up and STANDBY -/

/-- Once tier training is done the tiers, the local memories and the die buffers read 0 and start-up is complete (R537). A power-on from
the state before start-up, and a module reset, leave no task, memory without contents, the torus position of the straps and start-up at
stage 4, with every queue disabled: the image of manufacture is good (R500, R537, R559, R562; the image is log 3). -/
def Obligations.StartUp : Prop :=
  (∀ s : State, asleep s = false → (s.get F.genStartupStage = 3 ∨ s.get F.genStartupStage = 4) → Completes .tiersReady s fun t =>
    t.flag F.genStartupTiersReady = true ∧ t.get F.genStartupStage = 5 ∧ (∀ a, t.mem.get a = 0 ∧ t.mem.isPoison a = false) ∧
    RegsBut [⟨.genStartup, 0, 0⟩] s t ∧ t = { s with regs := t.regs, mem := t.mem, cores := t.cores }) ∧
  ∀ (x y z pmb : Nat) (s : State), x < 16 → y < 16 → z < 16 → s.power.off = false → s.sec.flash = none → s.sec.flashBad = false →
    s.sec.job = none → s.nvs.cells = [] → s.nvs.job = none →
    (Completes (.moduleReset x y z pmb) s fun t =>
      t.get F.genStartupStage = 4 ∧ t.flag F.genStartupTiersReady = false ∧ t.coords = [x, y, z] ∧ t.tasks = [] ∧ t.mem = {} ∧
      t.flag F.secLifecycleRecovery = false ∧ t.get F.secLifecycleState = s.sec.fuseState % 4 ∧
      ∀ (p : PartIx) (q : QueueIx), t.flag F.hostQCtrlEn p q = false) ∧
    (s.get F.genStartupStage = 1 → Completes (.powerOn x y z pmb) s fun t =>
      t.get F.genStartupStage = 4 ∧ t.coords = [x, y, z] ∧ t.tasks = [] ∧ t.mem = {} ∧ t.flag F.secLifecycleRecovery = false)

/-- A commanded STANDBY aborts every function that owns partitions, and is entered with the end of the last abort: tasks, requests and
memory contents are gone (R427); WAKE brings the module back to stage 3 with the torus position of the straps, its tiers to be trained
(R426, R539). -/
def Obligations.StandbyAndWake : Prop :=
  ∀ (f : Fn) (s : State),
    (Reaches f ⟨.pwrCmd, 0, 0⟩ s → s.mgmt = f → asleep s = false → s.power.standbyPending = false → Completes (.standby f) s fun t =>
      t.power.standbyPending = true ∧ (∀ g, s.partsOf g ≠ [] → t.flag F.hostAbortStatusBusy g.idx = true) ∧
      asleep t = false ∧ t.tasks = s.tasks ∧ t.mem = s.mem) ∧
    (abortReady s f = true → s.deferred = [] → s.power.standbyPending = true → s.flag F.hostAbortStatusBusy f.other.idx = false →
      s.flag F.nvsCmdStatusBusy = false → s.sec.job = none → Completes (.abortComplete f) s fun t =>
        t.get F.pwrStateModule = 4 ∧ t.tasks = [] ∧ t.reqs = [] ∧ t.stores = [] ∧ t.mem = {} ∧ t.flag F.genStartupTiersReady = false ∧
        asleep t = true) ∧
    (Reaches f ⟨.pwrCmd, 0, 0⟩ s → s.mgmt = f →
      s.get F.pwrStateModule = 4 → s.power.inputLow = false → s.power.inputHigh = false → s.nvs.factory.entries = [] → s.nvs.user.entries = [] →
      s.power.causes = [] → (∀ p : PartIx, partCtl s F.pwrPartFoldReq p = 0) →
      Completes (.wake f) s fun t =>
        t.get F.pwrStateModule = 0 ∧ t.get F.genStartupStage = 3 ∧ asleep t = false ∧ t.power.standbyCause = false ∧
        t.coords = [s.power.straps.getD 0 0 % 16, s.power.straps.getD 1 0 % 16, s.power.straps.getD 2 0 % 16])

/-! ### Security, debug and settings -/

/-- Firmware images: a window write stages its bytes (R502); IMAGE_UPDATE, and RECOVER_COMMIT in RECOVERY, check the staged image and
begin to write a good one to flash, or end with the check's result and code 0x7003 (R499, R503); the flash then holds the image and the
command ends with OK; the window is released (R502). -/
def Obligations.FirmwareImage : Prop :=
  ∀ (f : Fn) (s : State), busAlive s f = true →
    (∀ (off bytes : Nat) (v : DWord), (bytes = 4 ∨ bytes = 8) → off % bytes = 0 → off + bytes ≤ 0x10000 →
      (s.mgmt = f ∨ s.flag F.secLifecycleRecovery = true) → (s.flag F.secLifecycleRecovery = true → s.sec.holder = none ∨ s.sec.holder = some f) →
      (s.sec.stage.Pairwise fun x y => x.1 < y.1) →
      Completes (.imageWindowWrite f off bytes v) s fun t =>
        let o := s.get F.secImgBaseBase * 0x10000 + off
        (∀ k, imgByte t.sec.stage k = if o ≤ k ∧ k < o + bytes then (bytesOf 8 v.toNat).getD (k - o) 0 else imgByte s.sec.stage k) ∧
        t = { s with sec := t.sec }) ∧
    (∀ c ∈ [(Instr.imageUpdate f, 1), (.recoverCommit f, 5)], s.flag F.secLifecycleRecovery = decide (c.2 = 5) →
      (s.mgmt = f ∨ c.2 = 5) → s.flag F.secCmdStatusBusy = false → s.sec.restarting = false →
      Completes c.1 s fun t =>
        let r := imgResult (imgByte s.sec.stage) (some (s.get F.secImgLenLength)) s.sec.fuseSvn
        t.get F.secCmdStatusLastCmd = c.2 ∧ t.sec.holder = none ∧ t.mem = s.mem ∧ t.tasks = s.tasks ∧
        (r = 1 → t.flag F.secCmdStatusBusy = true ∧ t.sec.job = some { image := s.sec.stage, recovery := decide (c.2 = 5) }) ∧
        (r ≠ 1 → t.flag F.secCmdStatusDone = true ∧ t.get F.secCmdStatusResult = r ∧ (∃ x ∈ t.log, x.code = 0x7003) ∧ t.sec.job = s.sec.job)) ∧
    (∀ img, s.sec.job = some { image := img, recovery := false } → s.power.standbyPending = false → Completes .imageFlashComplete s fun t =>
      t.sec.flash = some img ∧ t.sec.job = none ∧ t.flag F.secCmdStatusBusy = false ∧ t.flag F.secCmdStatusDone = true ∧
      t.get F.secCmdStatusResult = 1 ∧ RegsBut [⟨.secCmdStatus, 0, 0⟩] s t ∧ t.mem = s.mem) ∧
    Completes .imageWindowRelease s fun t => t.sec.holder = none ∧ t = { s with sec := t.sec }

/-- Lifecycle commands of the management owner: FUSE_COMMIT, TAKE_OWNERSHIP and RETIRE begin their fuse work in the states that allow
them and else end with STATE or, for a RETIRE whose token does not serve, AUTH (R501, R510, R514, R521); the work's end burns the fuses
and shows them in SEC_LIFECYCLE; a TAKE_OWNERSHIP whose record the FACTORY region cannot hold ends with STORE and fuses nothing. -/
def Obligations.LifecycleCommands : Prop :=
  (∀ (f : Fn) (s : State), Reaches f ⟨.secCmd, 0, 0⟩ s → s.mgmt = f → s.flag F.secLifecycleRecovery = false →
    s.flag F.secCmdStatusBusy = false → s.sec.restarting = false →
    let begun (n : Nat) (t : State) : Prop := t.flag F.secCmdStatusBusy = true ∧ t.get F.secCmdStatusLastCmd = n ∧ t.sec.work = some n
    let ended (r n : Nat) (t : State) : Prop :=
      t.flag F.secCmdStatusDone = true ∧ t.get F.secCmdStatusResult = r ∧ t.get F.secCmdStatusLastCmd = n ∧ t.sec.work = s.sec.work
    (Completes (.fuseCommit f) s fun t =>
      (if s.sec.fuseSvn < s.get F.secLifecycleSvnImage then begun 2 t else ended 4 2 t) ∧ t.mem = s.mem ∧ t.tasks = s.tasks) ∧
    (Completes (.takeOwnership f) s fun t =>
      (if s.sec.fuseState = 0 then begun 3 t ∧ t.sec.workKey = s.sec.token.take 96 else ended 4 3 t) ∧ t.mem = s.mem ∧ t.tasks = s.tasks) ∧
    Completes (.retire f) s fun t =>
      (if s.sec.fuseState = 2 then ended 4 4 t else if tokenRetires s then begun 4 t else ended 2 4 t ∧ t.flag F.secIrqTokenRefused = true) ∧
      t.mem = s.mem ∧ t.tasks = s.tasks) ∧
  ∀ (n : Nat) (s : State), s.sec.work = some n → s.power.off = false → s.power.standbyPending = false →
    s.flag F.hostAbortStatusBusy 0 = false → s.flag F.hostAbortStatusBusy 1 = false → s.flag F.nvsCmdStatusBusy = false →
    (n = 2 ∨ n = 3 ∨ n = 4) → Completes .secCommandComplete s fun t =>
      t.sec.work = none ∧ t.flag F.secCmdStatusBusy = false ∧ t.flag F.secCmdStatusDone = true ∧
      t.get F.secCmdStatusResult = (if n = 3 ∧ ownerRecord s.nvs s.sec.workKey = none then 6 else 1) ∧
      t.get F.secCmdStatusLastCmd = n ∧
      (n = 3 → ownerRecord s.nvs s.sec.workKey = none → t.sec.fuseState = s.sec.fuseState ∧ t.get F.secLifecycleState = s.get F.secLifecycleState ∧
        t.nvs.cells = s.nvs.cells ∧ t.nvs.factory = s.nvs.factory) ∧
      (n = 2 → t.sec.fuseSvn = s.get F.secLifecycleSvnImage ∧ t.get F.secLifecycleSvnFuse = s.get F.secLifecycleSvnImage) ∧
      (∀ v, n = 3 → ownerRecord s.nvs s.sec.workKey = some v →
        t.sec.fuseState = 1 ∧ t.get F.secLifecycleState = 1 ∧ t.sec.ownerKey = s.sec.workKey ∧ t.nvs.cells = v.cells ∧ t.nvs.factory = v.factory ∧ t.get F.dbgLevelCur = 0) ∧
      (n = 4 → t.sec.fuseState = 2 ∧ t.sec.destroyed = true ∧ t.get F.secLifecycleState = 2 ∧ t.get F.dbgLevelCur = 0)

/-- Debug levels: UNLOCK has the token evaluated; the evaluation opens the token's level when the token holds, else sets TOKEN_REFUSED
with code 0x7006 and leaves the level (R511-R513); RELOCK and the expiry close it, with every core running and the trace gone (R518,
R523); at level D0 the test access port is in BYPASS (R516). At a debug level that covers its partition, the owner halts a core of an
unfolded partition, steps a halted core and resumes it (R515, R522). -/
def Obligations.DebugLevels : Prop :=
  (∀ s : State, s.power.off = false →
    (∀ f, Reaches f ⟨.dbgCtrl, 0, 0⟩ s → s.mgmt = f →
      (s.sec.evaluating = false → Completes (.unlock f) s fun t => t.sec.evaluating = true ∧ t = { s with sec := t.sec }) ∧
      (s.sec.evaluating = true → Completes (.unlock f) s fun t => t.flag F.cfgErrBusy f.idx = true ∧ OnlyRegs (errRegs f) s t) ∧
      Completes (.relock f) s fun t =>
        t.get F.dbgLevelCur = 0 ∧ t.get F.dbgLevelParts = 0 ∧ t.sec.expiry = none ∧ t.sec.trace = [] ∧
        (∀ c : CoreIx, (t.core c).halted = false ∧ (t.core c).haltPending = false) ∧ t.mem = s.mem ∧ t.tasks = s.tasks) ∧
    (s.sec.evaluating = true → Completes .tokenEvaluationDone s fun t =>
      t.sec.evaluating = false ∧ t.mem = s.mem ∧ t.tasks = s.tasks ∧
      (tokenOpens s = true → t.get F.dbgLevelCur = tok s 0 1 ∧ t.get F.dbgLevelParts = tok s 1 1 % 16) ∧
      (tokenOpens s = false → t.get F.dbgLevelCur = s.get F.dbgLevelCur ∧ t.flag F.secIrqTokenRefused = true ∧ ∃ x ∈ t.log, x.code = 0x7006)) ∧
    (s.sec.expiry.isSome = true → Completes .debugExpiry s fun t =>
      t.get F.dbgLevelCur = 0 ∧ t.sec.expiry = none ∧ (∀ c : CoreIx, (t.core c).halted = false) ∧ t.mem = s.mem ∧ t.tasks = s.tasks) ∧
    (s.get F.dbgLevelCur = 0 →
      (∀ bits, Completes (.tapScan true bits) s fun t =>
        t.out = s.out ++ [.tdo ((false :: bits).take bits.length)] ∧ t = { s with out := t.out, free := t.free }) ∧
      ∀ bits, Completes (.tapScan false bits) s fun t => t.sec.tapIr = [] ∧ t.regs = s.regs ∧ t.mem = s.mem)) ∧
  ∀ (f : Fn) (c : CoreIx) (s : State),
    let r : Reg := ⟨.dbgCoreCtrl, c / 36, c % 36⟩
    Reaches f r s → s.owns f (s.partOfCore c) = true → asleep s = false →
    (s.get F.dbgLevelCur = 3 ∨ s.get F.dbgLevelCur = 2 ∧ (s.get F.dbgLevelParts).testBit (s.partOfCore c) = true) →
    (folded s (s.partOfCore c) = false → Completes (.coreHalt f c) s fun t =>
      (t.core c).halted = true ∧ t.mem = s.mem ∧ t.tasks = s.tasks ∧ ∀ d : CoreIx, d ≠ c → t.core d = s.core d) ∧
    ((s.core c).halted = true → Completes (.coreStep f c) s fun t =>
      (t.core c).step = true ∧ (t.core c).halted = true ∧ t = { s with cores := t.cores }) ∧
    Completes (.coreResume f c) s fun t =>
      (t.core c).halted = false ∧ (t.core c).haltPending = false ∧ t.mem = s.mem ∧ t.tasks = s.tasks

/-- A settings store of well-formed staged records that fit begins; one with a bad record ends with its index; a RETIRED module stores
nothing; the end of a store leaves the journal of the batch and RESULT OK, or after a failed read-back RESULT 5 and code 0x8004 (R532,
R533). -/
def Obligations.SettingsStore : Prop :=
  (∀ (f : Fn) (s : State), Reaches f ⟨.nvsCmd, 0, 0⟩ s → s.mgmt = f → s.flag F.nvsCmdStatusBusy = false → s.sec.restarting = false →
    let factory := s.flag F.nvsStageCtrlTarget
    let ended (r : Nat) (t : State) : Prop := t.flag F.nvsCmdStatusDone = true ∧ t.flag F.nvsCmdStatusBusy = false ∧ t.get F.nvsCmdStatusResult = r ∧
      RegsBut [⟨.nvsCmdStatus, 0, 0⟩] s t ∧ t.nvs.cells = s.nvs.cells
    (s.sec.fuseState = 2 → Completes (.settingsStore f) s (ended 4)) ∧
    (s.sec.fuseState = 0 → ∀ bad, stagedFrom s.nvs.stage factory (s.get F.nvsStageCtrlCountMinus1 + 1) 0 0 = .inl bad → bad < 128 →
      Completes (.settingsStore f) s fun t => ended 2 t ∧ t.get F.nvsCmdStatusBadIndex = bad) ∧
    (s.sec.fuseState = 0 → ∀ rs j, stagedFrom s.nvs.stage factory (s.get F.nvsStageCtrlCountMinus1 + 1) 0 0 = .inr rs →
      storeJob s.nvs factory rs = some j → (rs.foldl entryApply s.nvs.user.entries).length ≤ 4096 →
      Completes (.settingsStore f) s fun t =>
        t.flag F.nvsCmdStatusBusy = true ∧ t.nvs.job = some j ∧ t.nvs.cells = s.nvs.cells ∧ RegsBut [⟨.nvsCmdStatus, 0, 0⟩] s t)) ∧
  ∀ (j : StoreJob) (s : State), s.nvs.job = some j → s.power.off = false → s.power.standbyPending = false →
    (Completes (.settingsStoreComplete true) s fun t =>
      t.nvs.job = none ∧ t.nvs.cells = j.writes.foldl (fun c w => nvsSet c w.1 w.2) s.nvs.cells ∧
      (if j.factory then t.nvs.factory = j.after else t.nvs.user = j.after ∧ t.nvs.bank = j.bank) ∧
      t.flag F.nvsCmdStatusDone = true ∧ t.get F.nvsCmdStatusResult = 1 ∧ t.mem = s.mem) ∧
    Completes (.settingsStoreComplete false) s fun t =>
      t.nvs.job = none ∧ t.flag F.nvsCmdStatusDone = true ∧ t.get F.nvsCmdStatusResult = 5 ∧ (∃ x ∈ t.log, x.code = 0x8004) ∧ t.mem = s.mem

/-- Requests that a mailbox answers at once, each with one answer and no other effect: discovery of the three protocols (R459), version
1.2 and 1.3, algorithms, capabilities and, in FACTORY alone, certificate requests (R505), unsigned measurements (R509), and messages in
an established session (R505); another slot than 0 is an error. IDE: keys of a stream are programmed and, once programmed, put into use,
which HOST_PORT_STATUS shows; a failed integrity check makes the stream insecure, with code 0x7007 (R459, R509). -/
def Obligations.Mailbox : Prop :=
  (∀ (f : Fn) (s : State), doeUp s f = true →
    let answers (i : Instr) (r : DoeRsp) : Prop := Completes i s fun t => t = { s with out := s.out ++ [.doe f r] }
    answers (.doeDiscovery f 0) (.discovery 1 0 1) ∧ answers (.doeDiscovery f 1) (.discovery 1 1 2) ∧
    answers (.doeDiscovery f 2) (.discovery 1 2 0) ∧ answers (.spdmGetVersion f) (.version [0x12, 0x13]) ∧
    answers (.spdmNegotiateAlgorithms f) (.algorithms ["ECDSA_P384", "SHA_384", "SECP_384_R1", "AES_256_GCM", "MEAS_SHA_384"]) ∧
    (Completes (.spdmGetCapabilities f) s fun t => ∃ l, t = { s with out := s.out ++ [.doe f (.capabilities l)] } ∧
      ("SET_CERTIFICATE" ∈ l ↔ s.sec.fuseState = 0) ∧ ("CHAL" ∈ l ∧ "MEAS" ∈ l ∧ "KEY_EX" ∈ l)) ∧
    answers (.spdmGetCsr f) (if s.sec.fuseState = 0 then .csr else .error 7) ∧
    (∀ chain, answers (.spdmSetCertificate f chain) (if s.sec.fuseState = 0 then .setCertificate else .error 7)) ∧
    (∀ slot off len, slot ≠ 0 → answers (.spdmGetCertificate f slot off len) (.error 1)) ∧
    (∀ off len, Completes (.spdmGetCertificate f 0 off len) s fun t =>
      (∃ bs n, bs.length ≤ len ∧ t.out = s.out ++ [.doe f (.certificate bs n)]) ∧ t = { s with out := t.out, free := t.free }) ∧
    (∀ i nonce, 1 ≤ i → i ≤ 5 → answers (.spdmMeasurements f i false nonce) (.measurements [measBlock s i] none)) ∧
    ∀ (id : Nat) (x : Session), session s f id = some x → x.established = true →
      answers (.spdmHeartbeat f id) (.heartbeatAck id) ∧ answers (.spdmKeyUpdate f id) (.keyUpdateAck id) ∧
      Completes (.spdmEndSession f id) s fun t =>
        t.out = s.out ++ [.doe f (.endSessionAck id)] ∧ session t f id = none ∧ t = { s with out := t.out, sec := t.sec }) ∧
  ∀ (f : Fn) (stream : Nat) (s : State), stream ≤ 4 →
    (∀ (id : Nat) (x : Session), doeUp s f = true → session s f id = some x → x.established = true →
      (Completes (.ideKm f id stream false) s fun t =>
        (f, stream, false) ∈ t.sec.ide ∧ t.out = s.out ++ [.doe f (.ideKm stream)] ∧
        RegsBut [⟨.hostPortStatus, 0, 0⟩, ⟨.hostPortStatus, 1, 0⟩] s t ∧ t = { s with regs := t.regs, sec := t.sec, out := t.out }) ∧
      ((f, stream, false) ∈ s.sec.ide → Completes (.ideKm f id stream true) s fun t =>
        (f, stream, true) ∈ t.sec.ide ∧ t.flag F.hostPortStatusIde f.idx = true ∧ t.out = s.out ++ [.doe f (.ideKm stream)] ∧
        RegsBut [⟨.hostPortStatus, 0, 0⟩, ⟨.hostPortStatus, 1, 0⟩] s t ∧ t = { s with regs := t.regs, sec := t.sec, out := t.out })) ∧
    (s.power.off = false → s.sec.ide = [(f, stream, true)] → Completes (.ideIntegrityFailure f stream) s fun t =>
      t.sec.ide = [(f, stream, false)] ∧ t.flag F.hostPortStatusIde f.idx = false ∧ (∃ x ∈ t.log, x.code = 0x7007) ∧ t.mem = s.mem ∧ t.tasks = s.tasks)

/-- Signed responses: within a stored run of one-time indices a CHALLENGE, a signed measurement and a KEY_EXCHANGE are answered at once,
each with the next index (R506, R507); with none left in the run the response waits for a reservation; a stored reservation opens the
next 64 indices (R507), a failed one answers the waiting requests with an error and code 0x7004; FINISH establishes the session (R505).
-/
def Obligations.SignedResponses : Prop :=
  ∀ (f : Fn) (nonce : List Byte) (s : State), doeUp s f = true → s.sec.fuseState ≠ 2 → lmsEmpty s = false →
    (s.sec.lmsNext < s.sec.lmsEnd → s.sec.waiting = [] →
      (Completes (.spdmChallenge f 0 nonce) s fun t =>
        (∃ sig, sig.index = s.sec.lmsNext ∧ t.out = s.out ++ [.doe f (.challengeAuth sig)]) ∧ t.sec.lmsNext = s.sec.lmsNext + 1 ∧
        t = { s with out := t.out, sec := t.sec, free := t.free }) ∧
      (Completes (.spdmMeasurements f 1 true nonce) s fun t =>
        (∃ sig, sig.index = s.sec.lmsNext ∧ t.out = s.out ++ [.doe f (.measurements [measBlock s 1] (some sig))]) ∧
        t.sec.lmsNext = s.sec.lmsNext + 1 ∧ t = { s with out := t.out, sec := t.sec, free := t.free }) ∧
      (sessionCount s f < 4 → Completes (.spdmKeyExchange f 0 nonce) s fun t =>
        (∃ sig, sig.index = s.sec.lmsNext ∧ t.out = s.out ++ [.doe f (.keyExchange s.sec.nextSession sig)]) ∧
        (∃ x ∈ t.sec.sessions, x.f = f ∧ x.id = s.sec.nextSession) ∧ t.sec.nextSession = s.sec.nextSession + 1 ∧
        t = { s with out := t.out, sec := t.sec, free := t.free })) ∧
    (s.sec.lmsEnd ≤ s.sec.lmsNext → Completes (.spdmChallenge f 0 nonce) s fun t =>
      t.sec.waiting = s.sec.waiting ++ [(f, .challenge nonce)] ∧ t.sec.lmsStoring = true ∧ t = { s with sec := t.sec }) ∧
    (s.sec.lmsStoring = true → s.sec.lmsEnd + 64 < lmsTotal → s.sec.waiting = [] → Completes (.lmsReservationStore true) s fun t =>
      t.sec.lmsEnd = s.sec.lmsEnd + 64 ∧ s.sec.lmsEnd ≤ t.sec.lmsNext ∧ t.sec.lmsStoring = false ∧
      (t.reg ⟨.secLmsLeft, 0, 0⟩).toNat = lmsTotal - (s.sec.lmsEnd + 64) ∧ t.mem = s.mem) ∧
    (s.sec.lmsStoring = true → s.sec.waiting = [(f, .challenge nonce)] → Completes (.lmsReservationStore false) s fun t =>
      t.sec.waiting = [] ∧ t.sec.lmsStoring = false ∧ .doe f (.error 5) ∈ t.out ∧ t.sec.lmsEnd = s.sec.lmsEnd ∧ (∃ x ∈ t.log, x.code = 0x7004)) ∧
    ∀ (id : Nat) (x : Session), session s f id = some x → x.established = false → Completes (.spdmFinish f id) s fun t =>
      t.out = s.out ++ [.doe f (.finish id)] ∧ (∃ y, session t f id = some y ∧ y.established = true) ∧ t = { s with out := t.out, sec := t.sec }

/-! ### Instructions of the cores -/

/-- Every instruction whose fields fit their bits, and that its word does not make invalid, is what its word decodes to: the encoder and
the decoder agree on every layout of R238, and no field is dropped. -/
def Obligations.WordRoundTrip : Prop :=
  ∀ i : HInstr, i.wf = true → decodeWord (encodeWord i) = some i

/-- A word of an opcode that the table does not list, or one with a reserved bit set or a field outside its codes, faults when a core
reaches it: a task that can be replayed is discarded, its queue holds, and the log has code 0x3001 (R265). -/
def Obligations.InvalidWordFaults : Prop :=
  ∀ (c : CoreIx) (t : Task) (w : Who) (x : Nat) (s : State), canRun s c (s.core c).running = some t →
    w = { p := s.partOfCore c, core := c, ctx := (s.core c).running, ps := pasidKey s (s.partOfCore c) t.q } →
    fetchWord s w t = .ok x → decodeWord x = none → (opcodeOf x = 0x01 ∨ (layoutOf (opcodeOf x)).isNone = true) →
    t.desc.nonReplayable = false →
    Completes (.nop c) s fun s' =>
      s'.task t.id = none ∧ s'.flag F.hostQStatusHeld t.p t.q = true ∧ ∃ r ∈ s'.log, r.code = 0x3001

/-- Control and synchronisation words: NOP goes on; LOOP enters its body (R261); END retires the core (R201); WAIT goes on where its
gate condition holds and else stalls (R209); SIGNAL records lane 0's increment (R208, R237); BARRIER waits at the next barrier (R257).
None of them touches memory, a register or a gate. What a stalled core waits for: a WAIT goes on once its gate condition holds (R209),
and the cores of a task that all wait at one occurrence of one barrier go on together (R257). -/
def Obligations.ControlInstructions : Prop :=
  (∀ (c : CoreIx) (t : Task) (w : Who) (s : State),
    let x := (s.core c).ctx w.ctx
    (NextInstr 0x01 c s .nop t w → Completes (.nop c) s fun s' =>
      (s'.core c).ctx w.ctx = x.advance ∧ s' = { s with cores := s'.cores }) ∧
    (∀ b n, NextInstr 0x03 c s (.loop b n) t w → x.loops.length < 4 →
      (∀ f, x.loops.head? = some f → x.slot + 1 + b ≤ f.start + f.len) → Completes (.loop c) s fun s' =>
        ((s'.core c).ctx w.ctx).slot = x.slot + 1 ∧
        ((s'.core c).ctx w.ctx).loops = { start := x.slot + 1, len := b, left := n } :: x.loops ∧ s' = { s with cores := s'.cores }) ∧
    (NextInstr 0x02 c s .endOp t w → x.loops = [] → (∀ g ∈ (s.core c).groups, g.task ≠ t.id) → barrierAhead s t x.barriers = false →
      Completes (.end_ c) s fun s' =>
        (s'.core c).ctx w.ctx = {} ∧ (∃ u, s'.task t.id = some u ∧ u.retired = (c.val, x.barriers) :: t.retired) ∧
        s' = { s with cores := s'.cores, tasks := s'.tasks, reqs := s'.reqs }) ∧
    (∀ g v, NextInstr 0x60 c s (.wait g v) t w → gateOk s w.p g = true →
      (s.gateHolds g v = true → Completes (.wait c) s fun s' =>
        (s'.core c).ctx w.ctx = x.advance ∧ s' = { s with cores := s'.cores }) ∧
      (s.gateHolds g v = false → Completes (.wait c) s fun s' =>
        (s'.core c).ctx w.ctx = { x with wait := .gate g v } ∧ s' = { s with cores := s'.cores })) ∧
    (∀ g n, NextInstr 0x61 c s (.signal g n) t w → gateOk s w.p g = true → Completes (.signal c) s fun s' =>
      (s'.core c).ctx w.ctx = x.advance ∧
      (∃ u, s'.task t.id = some u ∧ u.signals = if t.desc.lane c = 0 then t.signals ++ [(g, n)] else t.signals) ∧
      s' = { s with cores := s'.cores, tasks := s'.tasks }) ∧
    ∀ id, NextInstr 0x62 c s (.barrier id) t w → (∀ r ∈ t.retired, x.barriers + 1 ≤ r.2) → Completes (.barrier c) s fun s' =>
      (s'.core c).ctx w.ctx = { x with wait := .barrier id, barriers := x.barriers + 1 } ∧ s' = { s with cores := s'.cores }) ∧
  (∀ (c : CoreIx) (x : CtxIx) (g v : Nat) (s : State), ((s.core c).ctx x).wait = .gate g v → s.gateHolds g v = true →
    Completes (.waitRelease c x) s fun t =>
      (t.core c).ctx x = ((s.core c).ctx x).advance ∧ t = { s with cores := t.cores }) ∧
  ∀ (k : Task) (n i : Nat) (s : State), s.task k.id = some k → k.desc.mask ≠ [] → k.desc.mask.Nodup →
    (∀ c ∈ k.desc.mask, ((s.core c).ctxs.map (·.1)).Nodup) → (taskCtxs s k).length = k.desc.mask.length →
    (∀ e ∈ taskCtxs s k, e.2.2.wait = .barrier i ∧ e.2.2.barriers = n) →
    Completes (.barrierRelease k.id) s fun t =>
      (∀ e ∈ taskCtxs s k, (t.core e.1).ctx e.2.1 = e.2.2.advance) ∧ t = { s with cores := t.cores }

/-- STAT_READ of lane 0 stores the visible records, 64 bytes each, and other lanes only go on (R258); STAT_SNAP writes the sixteen
counters to the core's local memory once its passes have retired (R259). MOVE and FILL: a FILL of whole bytes of local memory leaves the
immediate in every element; a MOVE between equal formats copies the bits, and between others converts them (R248, R249). Both leave
all memory outside the core's own as it was, and every register but, for a MOVE, the count of bytes that its source stream reads
(R196). -/
def Obligations.LocalMemoryInstructions : Prop :=
  (∀ (c : CoreIx) (t : Task) (w : Who) (s : State), s.Inv →
    (∀ f n dva dst, NextInstr 0x70 c s (.statRead f n dva dst) t w → f + n + 1 ≤ 4096 / s.nParts →
      (t.desc.lane c ≠ 0 → Completes (.statRead c) s fun s' => Advanced w s s' ∧ s' = { s with cores := s'.cores }) ∧
      ∀ l, n = 0 → s.stores = [] → t.desc.lane c = 0 → covered t.regions dva (dst, 64, true) = true →
        writeRange s w.p w.ps dva dst false (s.tstatRec (w.p * (4096 / s.nParts) + f)) = .inl [(l, s.tstatRec (w.p * (4096 / s.nParts) + f))] →
        Completes (.statRead c) s fun s' =>
          Advanced w s s' ∧ (∃ y, s'.stores = [y] ∧ y.loc = l ∧ y.bytes = s.tstatRec (w.p * (4096 / s.nParts) + f) ∧ y.issued = false) ∧
          s'.mem = s.mem ∧ s'.regs = s.regs ∧ s'.tasks = s.tasks) ∧
    ∀ d v, NextInstr 0x71 c s (.statSnap d) t w → Opd.decode d = some (.loc v) → (s.core c).groups = [] →
      8 * v + 128 ≤ s.stageStart c → s.poisonIn (localBase c + 8 * v) 128 = none →
      Completes (.statSnap c) s fun s' =>
        Advanced w s s' ∧ LocalHolds c (8 * v) ((snapValues s c).flatMap fun x => bytesOf 8 x.toNat) s' ∧ OnlyLocal c s s' ∧
        s'.regs = s.regs ∧ s'.tasks = s.tasks) ∧
  ∀ (c : CoreIx) (t : Task) (w : Who) (v n : Nat) (df : Fmt) (s : State), s.Inv → s.mem.poison = [] → (n + 1) * df.bits % 8 = 0 →
    (∀ imm, NextInstr 0x41 c s (.fill df (.loc v) imm n) t w → 8 * v + (n + 1) * df.bits / 8 ≤ s.stageStart c →
      Completes (.fill c) s fun s' =>
        Advanced w s s' ∧ LocalHolds c (8 * v) (bytesOf ((n + 1) * df.bits / 8) (packBits df.bits (List.replicate (n + 1) imm))) s' ∧
        OnlyLocal c s s' ∧ s'.regs = s.regs ∧ s'.tasks = s.tasks) ∧
    ∀ sf ovf sat src a, NextInstr 0x40 c s (.move sf df ovf sat false (.loc v) src n) t w → readOpd s w src sf (n + 1) = .ok a →
      (moveRun false (.move sf df ovf sat false (.loc v) src n) t w s).2 = none →
      Completes (.move c false) s fun s' =>
        Advanced w s s' ∧ LocalHolds c (8 * v) (bytesOf ((n + 1) * df.bits / 8) (packBits df.bits (a.map fun e =>
          if sf = df then e.bits else (df.convert { ovfInf := ovf, sat := sat } (sf.decode e.bits)).bits))) s' ∧
        OnlyLocal c s s' ∧ RegsBut [⟨.coreStReadBytes, c / 36, c % 36⟩] s s'

/-- The frame of the vector instructions with every operand form: where the operands can be read and the destination takes every result,
the core goes on to the next slot; of the registers only its own counters of elements, beats and bytes read change, of the memory only its local memory
(a result for a store stream waits in its stores), and no queue, gate or log. Where the check of an output tile buffer that the instruction or
a MOVE reads finds an uncorrectable error, a task that can be replayed is discarded with code 0x1003 and its queue holds (R477). -/
def Obligations.VectorFrame : Prop :=
  let fails (t : Task) (s' : State) : Prop :=
    s'.task t.id = none ∧ s'.flag F.hostQStatusHeld t.p t.q = true ∧ ∃ r ∈ s'.log, r.code = 0x1003
  ∀ (c : CoreIx) (o : VecOp) (t : Task) (w : Who) (e : Bool) (s : State),
    (NextInstr o.kind.opcode c s (.vec o) t w → o.kind ≠ .vsort → o.readsTile = true → t.desc.nonReplayable = false →
      Completes (vecInstr o.kind c true) s (fails t)) ∧
    (∀ sf df ovf sat bc dst b r n, NextInstr 0x40 c s (.move sf df ovf sat bc dst (.tile b r) n) t w → t.desc.nonReplayable = false →
      Completes (.move c true) s (fails t)) ∧
    (s.Inv → NextInstr o.kind.opcode c s (.vec o) t w → (vecRun o t w s).2 = none → (e && o.readsTile) = false → Completes (vecInstr o.kind c e) s fun s' =>
      Advanced w s s' ∧ OnlyLocal c s s' ∧ RegsBut [⟨.coreVecElems, c / 36, c % 36⟩, ⟨.coreVecBusy, c / 36, c % 36⟩, ⟨.coreStReadBytes, c / 36, c % 36⟩] s s' ∧
      s'.queues = s.queues ∧ s'.log = s.log ∧ s'.ports = s.ports ∧ s'.out = s.out)

/-- The results of VBIN, VUN, VFMA, VRED, VSEG and VHIST with a LOCAL destination: its bytes are the elements of R268, R271 to R273 and
R277 packed in DFMT, in order. VTOPK, VSORT and VSCATADD in the core's local memory: the best elements of each list with their positions
(R275), the sorted keys (R276), and each named row with the source row added (R274). -/
def Obligations.VectorResults : Prop :=
  (∀ (c : CoreIx) (o : VecOp) (t : Task) (w : Who) (v : Nat) (es : List (List DElem)) (a b d : List DElem) (e : Bool) (s : State), s.Inv →
    NextInstr o.kind.opcode c s (.vec o) t w → (vecRun o t w s).2 = none → (e && o.readsTile) = false → o.dst = .loc v → s.mem.poison = [] →
    (withOffsets [] o.sources).mapM (fun e => readOpd s w e.1.1 e.1.2.1 e.1.2.2 e.2) = .ok es → a = es.getD 0 [] → b = es.getD 1 [] → d = es.getD 2 [] →
    let x (l : List DElem) (k : Nat) : Machine.Num := o.sfmt.decode (l.getD k {}).bits
    let n (k : Nat) : Nat := if o.bscal then 0 else k
    let res (r : List Machine.Num) : List Byte := bytesOf (r.length * o.dfmt.bits / 8) (packBits o.dfmt.bits (r.map fun y => (o.dfmt.convert o.mode y).bits))
    (o.kind = .vbin → Completes (.vbin ⟨c, e⟩) s
      (LocalHolds c (8 * v) (res ((List.range o.count).map fun k =>
        binExact o.sfmt o.func (x a k) (x b (n k)) (a.getD k {}).bits (b.getD (n k) {}).bits)))) ∧
    (o.kind = .vun → Completes (.vun ⟨c, e⟩) s
      (LocalHolds c (8 * v) (res ((List.range o.count).map fun k => unValue o.sfmt o.mode o.func (x a k))))) ∧
    (o.kind = .vfma → Completes (.vfma ⟨c, e⟩) s
        (LocalHolds c (8 * v) (res ((List.range o.count).map fun k => Machine.Num.add (Machine.Num.mul (x a k) (x b (n k))) (x d k))))) ∧
    (o.kind = .vred → Completes (.vred ⟨c, e⟩) s (LocalHolds c (8 * v) (res [intZero o.sfmt (vredValue o ((List.range o.count).map (x a)))]))) ∧
    (o.kind = .vseg →
      let ids := (List.range o.count).map fun k => (b.getD k {}).bits
      Completes (.vseg ⟨c, e⟩) s (LocalHolds c (8 * v) (res ((List.range (ids.getLastD 0 - ids.headD 0 + 1)).flatMap fun g =>
        (List.range o.rowElems).map fun j => intZero o.sfmt (segValue o
          (((List.range o.count).filter fun k => ids.getD k 0 == ids.headD 0 + g).map fun k => x a (k * o.rowElems + j))))))) ∧
    (o.kind = .vhist →
      let sum (j : Nat) : Nat := ((List.range o.count).filter fun k => min (a.getD k {}).bits o.bins == j).foldl
        (fun t k => t + if o.b.isNone then 1 else (b.getD k {}).bits) 0
      Completes (.vhist ⟨c, e⟩) s (LocalHolds c (8 * v) (bytesOf (4 * (o.bins + 1)) (packBits 32 ((List.range (o.bins + 1)).map fun j =>
        if o.sat then min (sum j) 0xFFFFFFFF else sum j % 2 ^ 32)))))) ∧
  ∀ (c : CoreIx) (o : VecOp) (t : Task) (w : Who) (v : Nat) (e : Bool) (s : State), s.Inv → NextInstr o.kind.opcode c s (.vec o) t w →
    (vecRun o t w s).2 = none → (e && o.readsTile) = false → s.mem.poison = [] →
    (∀ a, o.kind = .vtopk → o.dst = .loc v → readOpd s w o.a o.sfmt o.srcElems = .ok a → Completes (.vtopk ⟨c, e⟩) s
      (LocalHolds c (8 * v) ((List.range o.lists).flatMap fun l => topkBytes o ((a.drop (l * o.count)).take o.count)))) ∧
    (∀ ks, o.kind = .vsort → o.a = .loc v → o.b = .none → localElems s c (8 * v) o.sfmt o.count = .ok ks → Completes (.vsort c) s
      (LocalHolds c (8 * v) (bytesOf (4 * o.count)
        (packBits 32 (sortBy (fun x y => sortBefore (o.param == 1) (o.sfmt.decode x) (o.sfmt.decode y)) ks))))) ∧
    ∀ a i old, o.kind = .vscatadd → o.dst = .loc v → o.count = 1 → o.rowElems = 1 →
      (withOffsets [] o.sources).mapM (fun e => readOpd s w e.1.1 e.1.2.1 e.1.2.2 e.2) = .ok [[a], [i]] → i.bits ≠ noIndex → localElems s c (8 * v + i.bits * (o.dfmt.bits / 8)) o.dfmt 1 = .ok [old] →
      Completes (.vscatadd ⟨c, e⟩) s (LocalHolds c (8 * v + i.bits * (o.dfmt.bits / 8)) (bytesOf (o.dfmt.bits / 8)
        (o.dfmt.convert o.mode (intZero o.sfmt (Machine.Num.add (o.dfmt.decode old) (o.sfmt.decode a.bits)))).bits))

/-- UPDATE goes on where every check of R321 and every translation holds: its results are stores of the task that are still to be issued,
committed memory and every register but the core's element and beat counters stay as they were; of one element, the new weight that R322
gives under the word's optimizer and companion stands in a store. SAMPLE queues its request at the die's Drover and the core waits (R247,
R281); the Drover takes the oldest request, and at its end the core goes on, the request is counted and its outputs are stores of the task
(R281, R287). -/
def Obligations.UpdateAndSample : Prop :=
  (∀ (c : CoreIx) (t : Task) (w : Who) (sub comp : Nat) (pc dva : Bool) (addr : Nat) (s : State),
    let i := HInstr.desc .update sub comp pc dva addr
    let k := Companion.ofCode comp
    NextInstr 0x29 c s i t w → (updateRun i t w s).2 = none → Completes (.update c) s fun s' =>
      (∃ bs d, readRange s w.p w.ps c dva (descAddr t w pc addr) 64 = .ok bs ∧ parseUpdate bs = some d ∧
        updCheck s w t d (sub == 1) k = .ok () ∧
        ∀ hp ws g m1 m2 cs l, d.count = 1 → deviceNums s w d.hp 4 8 = .ok hp → deviceNums s w d.g 4 1 = .ok [g] → deviceNums s w d.st 4 1 = .ok [m1] →
          (sub = 1 → deviceNums s w (d.st + 256) 4 1 = .ok [m2]) → (sub ≠ 1 → m2 = 0) →
          (k ≠ .master32 → deviceNums s w d.w 2 1 = .ok [ws]) → (k = .master32 → ws = 0) →
          (k = .lined → deviceNums s w d.comp 1 1 = .ok [cs]) → (k = .master32 → deviceNums s w d.comp 4 1 = .ok [cs]) → (k = .stochastic → cs = 0) →
          let wb := bytesOf 2 (updElem (updEnv s w.p d (sub == 1) k hp) d.elemBase ws cs g m1 m2).1
          writeRange s w.p w.ps true d.w true wb = .inl [(l, wb)] →
            ∃ y ∈ s'.stores, y.loc ≤ l ∧ (y.bytes.drop (l - y.loc)).take 2 = wb) ∧
      (∀ y ∈ s'.stores, y ∉ s.stores → y.task = t.id ∧ y.core = c.val ∧ y.issued = false) ∧
      Advanced w s s' ∧ s'.mem = s.mem ∧ RegsBut [⟨.coreVecElems, c / 36, c % 36⟩, ⟨.coreVecBusy, c / 36, c % 36⟩] s s' ∧
      (∀ p q, s'.queue p q = s.queue p q) ∧ s'.log = s.log ∧ s'.ports = s.ports) ∧
  (∀ (c : CoreIx) (t : Task) (w : Who) (sub comp : Nat) (pc dva : Bool) (addr : Nat) (bs : List Byte) (m : Sampler) (s : State),
    NextInstr 0x33 c s (.desc .sample sub comp pc dva addr) t w → (∀ r ∈ (s.die (dieOfCore c)).drover, r.1 ≠ c.val) →
    readRange s w.p w.ps w.core dva (descAddr t w pc addr) 64 = .ok bs → parseSampler bs = some m → m.tensorId < tensorsOf s →
    m.extents.all (covered t.regions m.va) = true → Completes (.sample c) s fun s' =>
      (s'.die (dieOfCore c)).drover = (s.die (dieOfCore c)).drover ++ [(c.val, w.ctx, t.id, bs)] ∧
      (s'.core c).ctx w.ctx = { (s.core c).ctx w.ctx with wait := .drover } ∧ s' = { s with cores := s'.cores, dies := s'.dies }) ∧
  ∀ (d : DieIx) (s : State), s.powerOk (s.partOfDie d) = true → (s.part (s.partOfDie d)).draining = false →
    ((s.die d).active = false → (s.die d).drover ≠ [] → Completes (.droverRequestStart d) s fun t =>
      (t.die d).active = true ∧ (t.die d).drover = (s.die d).drover ∧ t = { s with dies := t.dies }) ∧
    ∀ (c : CoreIx) (ctx : CtxIx) (id : Nat) (bs : List Byte) (rest : List (Nat × Nat × Nat × List Byte)) (k : Task) (m : Sampler) (w : Who),
      (s.die d).active = true → (s.die d).drover = (c.val, ctx.val, id, bs) :: rest → s.task id = some k → k.p = s.partOfDie d →
      parseSampler bs = some m → w = { p := k.p, core := c, ctx := ctx, ps := pasidKey s k.p k.q } →
      (droverRun w id d m (drawsOf s k.p m) s).2 = none → Completes (.droverRequestDone d) s fun t =>
        (t.die d).drover = rest ∧ (t.die d).active = false ∧ Advanced w s t ∧
        (∀ y ∈ t.stores, y ∉ s.stores → y.task = id ∧ y.core = c.val ∧ y.issued = false) ∧
        t.reg ⟨.dieDrvRequests, d, 0⟩ = s.reg ⟨.dieDrvRequests, d, 0⟩ + 1 ∧ t.mem = s.mem ∧ t.log = s.log

/-- BIND puts the checked descriptor into its slot, bound by the task, at its first element (R250); UNBIND frees one slot or, with ALL,
every slot of the context (R251); REARM gives a persistent stream a new address and takes it back to its first element, and staged data of the old address is
dropped (R252); what run-ahead fetched for this task by this very descriptor stays (R176). A stream that run-ahead has bound for this BIND
keeps what it has fetched (R177), and the other streams stay as they are but for staged data that their share no longer holds (R150). -/
def Obligations.StreamInstructions : Prop :=
  ∀ (c : CoreIx) (t : Task) (w : Who) (s : State),
    (∀ slot sub pc dva addr d, NextInstr 0x30 c s (.desc .bind slot sub pc dva addr) t w → slot < 16 / s.ctxCount w.p →
      (s.core c).stream w.ctx slot = none → bindDesc s w t dva (descAddr t w pc addr) = .ok d → Completes (.bind c) s fun s' =>
        let a := descAddr t w pc addr
        let early := ((s.core c).anyStream w.ctx slot).filter fun e => decide (e.owner = t.id ∧ e.addr = a ∧ e.desc = d)
        (s'.core c).stream w.ctx slot = some (Stream.fit (stageShare s' c)
          (early.elim { addr := a, desc := d, boundBy := t.id, owner := t.id } fun e => { e with early := false })) ∧
        (∀ x n, (x, n) ≠ (w.ctx, slot) → (s'.core c).stream x n = ((s.core c).stream x n).map (Stream.fit (stageShare s' c))) ∧ Advanced w s s' ∧
        s'.mem = s.mem ∧ s'.tasks = s.tasks ∧ s'.reqs = s.reqs) ∧
    (∀ slot all, NextInstr 0x31 c s (.unbind slot all) t w → Completes (.unbind c) s fun s' =>
      (∀ n, all = true ∨ n = slot → (s'.core c).stream w.ctx n = none) ∧
      (∀ x n, x ≠ w.ctx ∨ all = false ∧ n ≠ slot → (s'.core c).stream x n = (s.core c).stream x n) ∧ Advanced w s s' ∧
      s' = { s with cores := s'.cores, reqs := s'.reqs }) ∧
    ∀ slot which add addr st d, NextInstr 0x32 c s (.rearm slot which add addr) t w → (s.core c).stream w.ctx slot = some st →
      st.desc.persist = true → st.desc.rearm which add addr = some d → Completes (.rearm c) s fun s' =>
        (∃ st', (s'.core c).stream w.ctx slot = some st' ∧ st'.desc = d ∧ st'.pos = 0 ∧ st'.boundBy = st.boundBy ∧
          st'.staged = (st.later.find? fun y => decide (y.task = st.boundBy ∧ y.desc = d)).elim [] (·.staged)) ∧
        Advanced w s s' ∧ s' = { s with cores := s'.cores, reqs := s'.reqs }

/-- The REDUCE-class words ALLREDUCE, REDUCE_SCATTER, ALLGATHER, SCALE_PREPASS and STEP_CLOSE (`redInstr` of each kind): lane 0 records
the collective of a descriptor that passes the checks of R254 and R384, STEP_CLOSE one without a descriptor; other lanes record nothing;
each goes on at once (R237, R253, R255). -/
def Obligations.ReduceInstructions : Prop :=
  ∀ (c : CoreIx) (k : RedKind) (mode group gate dsc : Nat) (t : Task) (w : Who) (s : State),
    NextInstr k.opcode c s (.reduce k mode group gate dsc) t w → gateOk s w.p gate = true → (group = 2 → s.penSize ≠ 1) →
    (t.desc.lane c ≠ 0 → Completes (redInstr k c) s fun s' => Advanced w s s' ∧ s' = { s with cores := s'.cores }) ∧
    (t.desc.lane c = 0 → shadowMapBad s w.p = false → k = .stepClose → Completes (redInstr k c) s fun s' =>
      (∃ u, s'.task t.id = some u ∧ u.collectives = t.collectives ++ [{ kind := k, mode := mode, group := group, gate := gate }]) ∧
      Advanced w s s' ∧ s' = { s with cores := s'.cores, tasks := s'.tasks }) ∧
    ∀ bs d, t.desc.lane c = 0 → shadowMapBad s w.p = false → k ≠ .stepClose → readRange s w.p w.ps w.core true dsc 64 = .ok bs →
      parseColl k mode group gate bs = some d → collCheck s w.p t d = .ok () → Completes (redInstr k c) s fun s' =>
        (∃ u, s'.task t.id = some u ∧ u.collectives = t.collectives ++ [d]) ∧
        Advanced w s s' ∧ s' = { s with cores := s'.cores, tasks := s'.tasks }

/-! ### Matrix passes -/

/-- MPASS: where the checks of R120, R240 and R242 hold, the pass is queued and its core goes on (R96). A tile of a pass without let-out
control is filled once its elements are present (R84), its rows enter (R88), and with the last result its buffer holds the sums (R94) and
the pass is gone, and counted in a partition that is ACTIVE or in GRAZE (R112). -/
def Obligations.MatrixPass : Prop :=
  ∀ (c : CoreIx) (s : State),
    (∀ o t w ws as, NextInstr 0x10 c s (.mpass o) t w → passCheck s w o = .ok (ws, as) → Completes (.mpass c) s fun s' =>
      (∃ g, (s'.core c).groups = (s.core c).groups ++ [g] ∧ g.id = s.nextId ∧ g.op = o ∧ g.task = t.id ∧ g.w = ws ∧ g.a = as) ∧
      ((s'.core c).ctx w.ctx).wrote o.buf = true ∧ Advanced w s s' ∧ s' = { s with cores := s'.cores, nextId := s.nextId + 1 }) ∧
    ((s.part (s.partOfCore c)).draining = false → s.coreOk c = true →
      (∀ u g es, nextFill (s.core c).units true = some u → groupOf (s.core c) u = some g → g.op.scope = .off → g.verdict = none →
        g.hazard (s.core c) = false → passElems s (groupWho s c g) g g.w (u.wIxs g) = .ok es → (passDelivered (groupWho s c g) g g.op.wSlot g.w (u.wIxs g) es s).2 = none →
        Completes (.fillComplete c) s fun t =>
          (∃ u' ∈ (t.core c).units, u'.group = u.group ∧ u'.sub = u.sub ∧ u'.weights = some es) ∧
          t.regs = s.regs ∧ t.mem = s.mem ∧ t.log = s.log) ∧
      ∀ u g ws, nextRows (s.core c) = some u → groupOf (s.core c) u = some g → u.weights = some ws → g.op.scope = .off → g.verdict = none →
        rowBlocked (s.core c) g = false → g.hazard (s.core c) = false →
        ∀ es, passElems s (groupWho s c g) g g.a (u.aIxs g) = .ok es → (passDelivered (groupWho s c g) g g.op.aSlot g.a (u.aIxs g) es s).2 = none →
          Completes (.rowAdmit c false) s fun t =>
            (∃ u' ∈ (t.core c).units, u'.group = u.group ∧ u'.sub = u.sub ∧ u'.rows = u.rows + 1 ∧
              u'.results = u.results ++ [rowSums g.op u es ws]) ∧
            t.reg ⟨.coreMxRowBeats, c / 36, c % 36⟩ = s.reg ⟨.coreMxRowBeats, c / 36, c % 36⟩ + 1 ∧
            RegsBut [⟨.coreMxRowBeats, c / 36, c % 36⟩] s t ∧ t.mem = s.mem ∧ t.log = s.log) ∧
    ∀ u g e, (s.core c).units = [u] → groupOf (s.core c) u = some g → u.rows = g.op.m → g.op.scope = .off → g.verdict ≠ some true →
      (e && u.add) = false → Completes (.passLastResult ⟨c, e⟩) s fun t =>
        (∀ (r : Fin u.results.length), (t.core c).tileRow g.op.buf r =
          (u.results[r].zipIdx.map fun x => accElem g.op u.add (((s.core c).tileRow g.op.buf r).getD x.2 0) x.1)) ∧
        (t.core c).units = [] ∧ (∀ h ∈ (t.core c).groups, h.id ≠ g.id) ∧
        t.reg ⟨.coreMxPasses, c / 36, c % 36⟩ = s.reg ⟨.coreMxPasses, c / 36, c % 36⟩ + (if partPower s (s.partOfCore c) ≤ 1 then 1 else 0) ∧
        RegsBut [⟨.coreMxPasses, c / 36, c % 36⟩] s t ∧ t.mem = s.mem

/-- Let-out: a pass of scope TILE whose verdict is a let-out is repeated one rung higher with fresh counts (R126); one of scope LAYER
restarts its task, which keeps its identity and counts the restart (R131), or, where the task cannot be replayed, is a partition fault
(R220). -/
def Obligations.LetOut : Prop :=
  ∀ (c : CoreIx) (g : PassGroup) (s : State),
    (letOut (s.core c) .tile = some g → Completes (.letoutTileRepeat c) s fun t =>
      (∃ h ∈ (t.core c).groups, h.id = g.id ∧ h.rung = g.rung + 1 ∧ h.verdict = none ∧ h.counts = {} ∧ h.letouts = g.letouts + 1) ∧
      t = { s with cores := t.cores }) ∧
    ∀ k, letOut (s.core c) .layer = some g → s.task g.task = some k →
      (k.desc.nonReplayable = false → Completes (.letoutLayerRestart c) s fun t =>
        (∃ u, t.task k.id = some u ∧ u.restarts = k.restarts + 1 ∧ u.started = [] ∧ u.retired = [] ∧ u.desc = k.desc ∧
          (g.outW = true → g.rung + 1 ≤ tget u.rungs g.w.desc.tensorId 0)) ∧ t.mem = s.mem ∧ t.log = s.log) ∧
      (k.desc.nonReplayable = true → s.flag F.fltPartStatusFaulted k.p = false → Completes (.letoutLayerRestart c) s fun t =>
        t.flag F.fltPartStatusFaulted k.p = true ∧ t.get F.fltPartStatusCode k.p = 0x3018 ∧ (t.part k.p).draining = true ∧ t.mem = s.mem)

/-! ### Streams and tasks at work -/

/-- Requests and their answers: a fetched descriptor readies its stream (R149); the slot's oldest store, or with none the oldest that no slot
makes, issues, with a tracker entry of its own or merged (R165, R166); a load stream asks for the next bytes that its task lacks, within its
share (R150), and a multicast one for its whole group (R170); data reach staging and their tracker entry is free (R166); an acknowledged store
is in memory, and no other byte changes (R167). -/
def Obligations.StreamRequests : Prop :=
  ∀ (c : CoreIx) (x : CtxIx) (slot : SlotIx) (s : State), s.Inv →
    (Completes (.streamDescriptorFetched c x slot) s fun t =>
      (∀ e ∈ (t.core c).streams, e.1 = (x.val, slot.val) → e.2.ready = true) ∧ t = { s with cores := t.cores }) ∧
    (let waiting (ok : Nat → Bool) := (s.stores.filter fun y => y.core == c.val && y.ctx == x.val && ok y.slot && !y.issued).getLast?
      ∀ y, (waiting (· == slot.val)).or (waiting fun n => decide (16 ≤ n)) = some y →
        coreWorks s c = true → trackerFree s c y.offload (y.slot == droverSlot) = true → Completes (.streamRequestIssue c x slot) s fun t =>
          (∀ z ∈ t.stores, z.id = y.id → z.issued = true) ∧ t.stores.map (·.id) = s.stores.map (·.id) ∧
          RegsBut [⟨.coreStMerges, c / 36, c % 36⟩] s t ∧ t = { s with stores := t.stores, regs := t.regs, free := t.free }) ∧
    (coreWorks s c = true → (s.core c).halted = false → atMarker (s.core c) x = false → ∀ st,
      (s.core c).anyStream x slot = some st → st.early = false → ((s.core c).ctx x).task = some st.boundBy → st.ready = true → st.desc.store = false →
      Nat.max st.ahead st.pos < st.desc.total → trackerFree s c st.desc.offload = true →
      let w := whoOf s c x st.trim
      let lacks (start : Nat) : Option (Nat × Nat) := match nextFetch s w slot .own st.trim st.desc.total 4096 start with
        | .at j l e more _ => some (l, if more then e else (spanEnd s w st.trim st.desc.total l 2048 (j + 1) e).2.2)
        | .item _ l n _ => some (l, l + Nat.min n (256 - l % 256))
        | _ => none
      (∀ l stop, (st.desc.mcast = false ∨ st.left = true) → lacks (Nat.max st.ahead st.pos) = some (l, stop) → portFree s l = true →
        (∀ y ∈ s.stores, y.core = c.val → y.ctx = x.val → y.issued = true) → (∀ g ∈ (s.core c).groups, g.ctx ≠ x.val) →
        claimed s c x slot st + (stop - l) ≤ stageShare s c →
        (∀ q ∈ s.reqs, q.core = c.val → q.ctx = x.val → q.slot = slot.val → q.loc / 256 = l / 256 →
          claimed s c x slot st + (Nat.max (q.loc + q.len) stop - Nat.min q.loc l) ≤ stageShare s c) → Completes (.streamRequestIssue c x slot) s fun t =>
        (∃ r ∈ t.reqs, r.core = c.val ∧ r.loc ≤ l ∧ stop ≤ r.loc + r.len) ∧ RegsBut [⟨.coreStMerges, c / 36, c % 36⟩] s t ∧
        t.mem = s.mem ∧ t.tasks = s.tasks) ∧
      ∀ k l stop, (s.core c).streams.find? (fun e => e.1.2 == slot.val && e.2.desc.mcast && !e.2.left && !e.2.early) = some ((x.val, slot.val), st) →
        s.task st.boundBy = some k → lacks st.ahead = some (l, stop) → portFree s l = true → claimed s c x slot st + (stop - l) ≤ stageShare s c →
        let g := mcastGroup s k slot st
        (∀ m ∈ k.desc.mask, mcastWaits s k slot st m = false) → (∀ m ∈ g, claimed s m.1 m.2.1 slot m.2.2 + 256 ≤ stageShare s m.1) →
        g ≠ [] → Completes (.mcastSegmentFetch c slot) s fun t =>
          (∃ r, t.reqs = s.reqs ++ [r] ∧ r.loc = l ∧ r.len = stop - l ∧ r.members = g.map (·.1)) ∧ t.regs = s.regs ∧ t.mem = s.mem ∧ t.tasks = s.tasks) ∧
    (∀ r st, s.reqs = [r] → r.core = c.val → r.ctx = x.val → r.slot = slot.val → r.members = [] → r.dead = false → r.pass = none → r.later = none →
      isHostLoc r.loc = false → s.poisonIn r.loc r.len = none → (s.core c).streams = [((x.val, slot.val), st)] → st.trim.size + r.len ≤ stageShare s c →
      Completes (.readDataDelivered r.id .none []) s fun t =>
        t.reqs = [] ∧ (∃ st', (t.core c).streams = [((x.val, slot.val), st')] ∧
          (r.loc, (List.range r.len).map fun k => byteSeen s c (r.loc + k)) ∈ st'.staged) ∧
        t.reg ⟨.coreStReadBytes, c / 36, c % 36⟩ = s.reg ⟨.coreStReadBytes, c / 36, c % 36⟩ + BitVec.ofNat 64 r.len ∧
        t.mem = s.mem ∧ t.tasks = s.tasks) ∧
    ∀ y, s.stores = [y] → y.core = c.val → y.issued = true → y.merged = none → isHostLoc y.loc = false → s.mem.poison = [] →
      Completes (.storeAck y.id .none) s fun t =>
      t.stores = [] ∧ (∀ a, t.mem.get a = if y.loc ≤ a ∧ a < y.loc + y.bytes.length then y.bytes.getD (a - y.loc) 0 else s.mem.get a) ∧
      t.reg ⟨.coreStWriteBytes, c / 36, c % 36⟩ = s.reg ⟨.coreStWriteBytes, c / 36, c % 36⟩ + BitVec.ofNat 64 y.bytes.length ∧
      t.tasks = s.tasks

/-- Run-ahead goes on into the next later task, for which persistent streams begin to fetch, and binds the first free slot that its opening
BIND names early, unseen by the instructions until that BIND (R172, R176, R177); where the running context would stall, the core turns to one
that is ready, and counts the switch (R179, R214). -/
def Obligations.RunAhead : Prop :=
  ∀ (c : CoreIx) (x : CtxIx) (k : Task) (w : Who) (s : State),
    w = { p := s.partOfCore c, core := c, ctx := x, ps := pasidKey s (s.partOfCore c) k.q } →
    (nextTask s c x = some k → Completes (.runAheadResume c x) s fun t =>
      ((t.core c).ctx x).ahead = some k.id ∧
      (∀ n st, (s.core c).stream x n = some st → (t.core c).stream x n = some (st.goOn n k.id (openings s w k 64 0))) ∧
      t = { s with cores := t.cores }) ∧
    (∀ slot sub pc dva addr d rest, (laterTasks s c x).head? = some k →
      (((s.core c).ctx x).ahead = none ∨ ((s.core c).ctx x).ahead = some k.id ∧ s.task k.id = some k) →
      openings s w k 64 0 = .desc .bind slot sub pc dva addr :: rest → (s.core c).anyStream x slot = none →
      slot < 16 / s.ctxCount (s.partOfCore c) → bindDesc s w k dva (descAddr k w pc addr) = .ok d → Completes (.runaheadBind c x) s fun t =>
        (∃ st, (t.core c).anyStream x slot = some st ∧ st.desc = d ∧ st.owner = k.id ∧ st.early = true) ∧
        (t.core c).stream x slot = none ∧ t = { s with cores := t.cores }) ∧
    (x.val ≠ (s.core c).running → x.val < s.ctxCount (s.partOfCore c) → coreWorks s c = true → ctxReady s c (s.core c).running = false →
      ctxReady s c x = true → Completes (.contextSwitch c x) s fun t =>
        (t.core c).running = x.val ∧ t.reg ⟨.coreCtxSwitches, c / 36, c % 36⟩ = s.reg ⟨.coreCtxSwitches, c / 36, c % 36⟩ + 1 ∧
        RegsBut [⟨.coreCtxSwitches, c / 36, c % 36⟩] s t ∧ t = { s with cores := t.cores, regs := t.regs })

/-- The way of a task: its descriptor arrives from the ring and is checked (R262, R263), it is dispatched with its regions, or rejected
with code 0x3010 where they are bad (R199, R217), it starts on a core of its mask (R200), and at its end its signal is added and HEAD
moves past it (R201, R205). -/
def Obligations.TaskLife : Prop :=
  ∀ (p : PartIx) (q : QueueIx) (s : State),
    (∀ bs, let i := skipDone s p q 65536 (s.queue p q).next
      let a := s.get F.hostQBaseAddr p q * 64 + i % ringSize s p q * 64
      partOpen s p = true → s.flag F.hostQCtrlEn p q = true → s.flag F.hostQStatusHeld p q = false → (s.queue p q).fetched = none →
      (i + 2 ^ 32 - s.get F.hostQHeadHead p q) % 2 ^ 32 < (s.get F.hostQTailTail p q + 2 ^ 32 - s.get F.hostQHeadHead p q) % 2 ^ 32 →
      readRange s p (pasidKey s p q) 144 true a 64 = .ok bs →
      (∀ d, parseTask bs = some d → d.ok s p = true → Completes (.taskDescriptorFetched p q []) s fun t =>
        (t.queue p q).fetched = some d ∧ (t.queue p q).next = i ∧ t = { s with queues := t.queues }) ∧
      (parseTask bs = none → Completes (.taskDescriptorFetched p q []) s fun t =>
        t.flag F.hostQStatusHeld p q = true ∧ (t.queue p q).held = some i ∧ ∃ r ∈ t.log, r.code = 0x3003)) ∧
    (∀ d bs, (s.queue p q).fetched = some d → partOpen s p = true → s.powerOk p = true → s.flag F.genStartupTiersReady = true →
      s.flag F.hostQStatusHeld p q = false → s.flag F.hostQStatusCplFull p q = false →
      (∀ w ∈ d.waits, s.gateHolds w.1 w.2 = true) → readRange s p (pasidKey s p q) 144 d.rva d.regions (16 * d.regionCount) = .ok bs →
      let rs := (List.range d.regionCount).map fun k => parseRegion (bits (natOf bs) (128 * k) 128)
      ((∀ r ∈ rs, r.isSome = true) → regionsOk (rs.filterMap id) = true → Completes (.taskDispatch p q) s fun t =>
        (∃ k, t.tasks = s.tasks ++ [k] ∧ k.p = p.val ∧ k.q = q.val ∧ k.index = (s.queue p q).next ∧ k.desc = d ∧
          k.regions = rs.filterMap id ∧ k.dispatchTime = s.time) ∧
        (t.queue p q).next = ((s.queue p q).next + 1) % 2 ^ 32 ∧ (t.queue p q).fetched = none ∧ t.flag F.hostQStatusRunning p q = true ∧
        RegsBut [⟨.hostQStatus, p, q⟩] s t ∧ t.mem = s.mem) ∧
      ((∃ r ∈ rs, r.isNone = true) ∨ regionsOk (rs.filterMap id) = false → Completes (.taskDispatch p q) s fun t =>
        t.flag F.hostQStatusHeld p q = true ∧ (t.queue p q).held = some (s.queue p q).next ∧ ∃ r ∈ t.log, r.code = 0x3010)) ∧
    (∀ (c : CoreIx) (x : CtxIx) (k : Task), ((s.core c).ctx x).task = none → s.powerOk (s.partOfCore c) = true →
      (s.part (s.partOfCore c)).draining = false → s.tasks = [k] → k.ctx = x.val → k.desc.mask.contains c.val = true → k.started = [] →
      Completes (.taskStart c x) s fun t =>
        (t.core c).ctx x = { task := some k.id } ∧ (∃ u, t.tasks = [u] ∧ u.id = k.id ∧ u.started = [c.val] ∧ u.live = liveSnap s (s.partOfCore c) k.q) ∧
        t.regs = s.regs ∧ t.mem = s.mem) ∧
    ∀ k : Task, s.task k.id = some k → k.p = p.val → k.q = q.val → taskRetired s k = true → (s.part p).draining = false → k.collectives = [] →
      k.signals = [] → k.desc.cpl = false → k.index = s.get F.hostQHeadHead p q → (s.queue p q).done = [] →
      Completes (.taskComplete k.id) s fun t =>
        t.task k.id = none ∧ t.get F.hostQHeadHead p q = (k.index + 1) % 2 ^ 32 ∧
        (∀ g : GateIx, t.gate g = match k.desc.signal with
          | some e => if e.1 = g.val then (s.gate g + e.2) % 2 ^ 32 else s.gate g
          | none => s.gate g) ∧
        t.mem = s.mem ∧ t.log = s.log

/-! ### Garjor -/

/-- Port training: TRAIN of the management owner brings a port of an axis with a partner to TRAINING with no lane up, does nothing on an axis
of one module (R355), or is refused with MISMATCH (R361, R371); DISABLE brings it to OFF with its packets still waiting (R373). A port that
trains tells its identity (R361). Training ends UP on the lanes that locked, with credits and sequence numbers initialised and its partner
recorded (R361, R363), or FAILED with its reason and code (R361, R362). -/
def Obligations.PortTraining : Prop :=
  ∀ (g : PortIx) (s : State),
    let r : Reg := ⟨.fabGpStatus, g, 0⟩
    (∀ f, s.mgmt = f → Reaches f ⟨.fabGpCtrl, g, 0⟩ s →
      (trainBad s = false → s.dims.getD (g.val / 2) 1 ≠ 1 → Completes (.train f g) s fun t =>
        t.get F.fabGpStatusState g = 1 ∧ t.get F.fabGpStatusReason g = 0 ∧ t.get F.fabGpStatusLanesUp g = 0 ∧ t.flag F.fabGpStatusLpi g = false ∧
        (t.port g).txq = (s.port g).txq ∧ (t.port g).replay = (s.port g).replay ∧ (t.port g).retraining = false ∧ RegsBut [r] s t ∧
        t = { s with regs := t.regs, ports := t.ports }) ∧
      (trainBad s = false → s.dims.getD (g.val / 2) 1 = 1 → Completes (.train f g) s fun t => t = s) ∧
      (trainBad s = true → Completes (.train f g) s fun t => t.flag F.cfgErrMismatch f.idx = true ∧ OnlyRegs (errRegs f) s t) ∧
      (Completes (.disable f g) s fun t =>
        t.get F.fabGpStatusState g = 0 ∧ t.get F.fabGpStatusLanesUp g = 0 ∧ (t.port g).txq = (s.port g).txq ∧
        (t.port g).replay = (s.port g).replay ∧ RegsBut [r] s t ∧ t = { s with regs := t.regs, ports := t.ports }) ∧
      Completes (.recalNow f g) s fun t => (t.port g).due = true ∧ t = { s with ports := t.ports }) ∧
    (portState s g = 1 →
      ((s.port g).said = 1 → Completes (.flitTransmit g) s fun t =>
        SentFlit g (flitHdr 2 0 0 0 false false) (ctrlPayload (linkIdentity s g)) (fun w => .ctrlFlit g w (ctrlPayload (linkIdentity s g)) (linkIdentity s g)) s t ∧
        (t.port g).txSeq = (s.port g).txSeq ∧ (t.port g).replay = (s.port g).replay ∧ t = { s with out := t.out, ports := t.ports }) ∧
      (∀ e lanes l v, (e = .up lanes ∨ ∃ k x y z dx dy dz pen, e = .partner lanes x y z k dx dy dz pen s.layout ∧ k = g.val ^^^ 1 ∧
          [x, y, z] = neighbour s g ∧ [dx, dy, dz] = s.dims ∧ pen = s.get F.fabTorusPenLog2) →
        laneSet lanes.toNat = some (l, v) → Completes (.trainingEnd g e) s fun t =>
        t.get F.fabGpStatusState g = 2 ∧ t.get F.fabGpStatusLanesUp g = l ∧ t.get F.fabGpStatusWidth g = v ∧
        t.reg ⟨.fabGpPartner, g, 0⟩ = partnerWord (neighbour s g) (g.val ^^^ 1) ∧
        (t.port g).txSeq = 0 ∧ (t.port g).rxSeq = 0 ∧ (t.port g).replay = [] ∧ (t.port g).credits = List.replicate 8 32 ∧
        (t.port g).pool = 1280 ∧ RegsBut [r, ⟨.fabGpPartner, g, 0⟩] s t ∧
        (∀ p, (t.part p).tally.list = (s.part p).tally.list ∧ (t.part p).tally.rx.map (·.bytes) = (s.part p).tally.rx.map (·.bytes)) ∧
        t = { s with regs := t.regs, ports := t.ports, parts := t.parts }) ∧
      (∀ e, e = .noLock ∨ (∃ lanes, e = .up lanes ∧ laneSet lanes.toNat = none) → Completes (.trainingEnd g e) s fun t =>
        t.get F.fabGpStatusState g = 4 ∧ t.get F.fabGpStatusReason g = 2 ∧ (∃ x ∈ t.log, x.code = 0x4003) ∧ t.ports = s.ports ∧ t.mem = s.mem) ∧
      (∀ lanes x y z k dx dy dz pen lay,
        let wrong : Prop := k ≠ g.val ^^^ 1 ∨ [x, y, z] ≠ neighbour s g
        wrong ∨ [dx, dy, dz] ≠ s.dims ∨ pen ≠ s.get F.fabTorusPenLog2 ∨ lay ≠ s.layout →
        Completes (.trainingEnd g (.partner lanes x y z k dx dy dz pen lay)) s fun t =>
          t.get F.fabGpStatusState g = 4 ∧ (wrong → t.get F.fabGpStatusReason g = 3) ∧ (¬ wrong → t.get F.fabGpStatusReason g = 4) ∧
          (∃ x ∈ t.log, x.code = 0x4004) ∧ t.ports = s.ports ∧ t.mem = s.mem) ∧
      Completes (.noPartner g) s fun t =>
        t.get F.fabGpStatusState g = 4 ∧ t.get F.fabGpStatusReason g = 1 ∧ (∃ x ∈ t.log, x.code = 0x4003) ∧ t.ports = s.ports ∧ t.mem = s.mem)

/-- Flits in, on a port that carries flits: the symbols that the code corrects are counted, and a codeword with more than 15 (R343, R376). A
flit that is not whole is counted, asked for, and has no effect (R347, R349). A whole DATA flit with the expected SEQ is accepted, and with
LAST its packet goes to Tally, which holds its credits while its buffer is full (R399), or on VC_4 to VC_7 to the management core (R350); a
CTRL flit takes its effect in sequence (R348, R351, R366, R367); of an IDLE flit only the ACK counts (R344); a NAK sends the transmitter back
to the SEQ that it names (R349). One flit time: IDLE at the latest with the 4,096th flit, and with nothing to send or a full replay buffer
(R344, R349); else a NAK that is due, the flits to repeat, a CTRL flit, or the arbitration's choice with the next SEQ, the present ACK and
its CRC, kept for replay (R346, R349, R352). -/
def Obligations.Flits : Prop :=
  (∀ (g : PortIx) (x : RxFlit) (errs : List Nat) (s : State), portUp s g = true →
    let h := flitWord x % 2 ^ 32
    let y : Port := if h / 2 ^ 30 % 2 = 1 then (s.port g).ack (hdrAck h) else s.port g
    let fec : List Reg := [⟨.fabGpFecCorr, g, 0⟩, ⟨.fabGpFecUncorr, g, 0⟩]
    let counted (t : State) : Prop :=
      t.reg ⟨.fabGpFecCorr, g, 0⟩ = s.reg ⟨.fabGpFecCorr, g, 0⟩ + BitVec.ofNat 64 (errs.filter fun e => decide (e ≤ 15)).sum ∧
      t.reg ⟨.fabGpFecUncorr, g, 0⟩ = s.reg ⟨.fabGpFecUncorr, g, 0⟩ + BitVec.ofNat 64 (errs.filter fun e => decide (15 < e)).length
    let next := ((s.port g).rxSeq + 1) % 4096
    (∀ i ty, ((i = .dataFlit g x.hdr x.crc x.payload errs ∧ ty = 1) ∨ (∃ c, i = .ctrlFlit g x errs c ∧ ty = 2) ∨ (i = .idleFlit g x errs ∧ ty = 0) ∨
        (i = .nak g x errs ∧ ty = 3)) → flitGood ty (flitWord x) x.payload errs = false → Completes i s fun t =>
      t.reg ⟨.fabGpCrcErr, g, 0⟩ = s.reg ⟨.fabGpCrcErr, g, 0⟩ + 1 ∧ counted t ∧ t.port g = { s.port g with nakOut := true, nakDue := true } ∧
      RegsBut (⟨.fabGpCrcErr, g, 0⟩ :: fec) s t ∧ t = { s with regs := t.regs, ports := t.ports }) ∧
    (flitGood 1 (flitWord x) x.payload errs = true → hdrSeq h = (s.port g).rxSeq →
      let vc := h / 8 % 8
      let sofar := tget (s.port g).rx vc [] ++ [x.payload]
      let p := natOf (sofar.flatten.take 8) / 4096 % 4
      let held := if tallyFull s p then some (g.val, vc, sofar.length - tget (s.port g).rxOld vc 0) else none
      (h / 2 ^ 31 = 0 → Completes (.dataFlit g x.hdr x.crc x.payload errs) s fun t =>
        (t.port g).rxSeq = next ∧ tget (t.port g).rx vc [] = sofar ∧ t.reg ⟨.fabGpRxFlits, g, 0⟩ = s.reg ⟨.fabGpRxFlits, g, 0⟩ + 1 ∧ counted t ∧
        RegsBut (⟨.fabGpRxFlits, g, 0⟩ :: fec) s t ∧ t = { s with regs := t.regs, ports := t.ports }) ∧
      (h / 2 ^ 31 = 1 → routePort s (natOf (sofar.flatten.take 8) % 4096) = none → s.partExists p = true → Completes (.dataFlit g x.hdr x.crc x.payload errs) s fun t =>
        (t.port g).rxSeq = next ∧ counted t ∧
        (vc < 4 → (t.part p).tally.rx = (s.part p).tally.rx ++ [{ bytes := sofar.flatten, time := s.time, held := held }] ∧ t.out = s.out) ∧
        (4 ≤ vc → t.out = s.out ++ [.mgmtPacket vc sofar.flatten] ∧ t.parts = s.parts) ∧
        t = { s with regs := t.regs, ports := t.ports, parts := t.parts, out := t.out })) ∧
    (flitGood 2 (flitWord x) x.payload errs = true → hdrSeq h = (s.port g).rxSeq →
      (∀ (vc : Fin 8) r n, (s.port g).credits.length = 8 → Completes (.ctrlFlit g x errs (.credit vc r n)) s fun t =>
        let now := (s.port g).credits.getD vc 0 + r
        (t.port g).credits = (s.port g).credits.set vc (min 32 now) ∧ (t.port g).pool = min 1280 ((s.port g).pool + n + (now - 32)) ∧
        (t.port g).rxSeq = next ∧ counted t ∧ RegsBut fec s t ∧ t = { s with regs := t.regs, ports := t.ports }) ∧
      (Completes (.ctrlFlit g x errs .recalStart) s fun t =>
        portState t g = 3 ∧ (t.port g).rxSeq = next ∧ RegsBut (⟨.fabGpStatus, g, 0⟩ :: fec) s t ∧ t = { s with regs := t.regs, ports := t.ports }) ∧
      ((s.port g).lpiAsked = true → Completes (.ctrlFlit g x errs .lpiAccept) s fun t =>
        t.flag F.fabGpStatusLpi g = true ∧ portState t g = 2 ∧ (t.port g).rxSeq = next ∧ RegsBut (⟨.fabGpStatus, g, 0⟩ :: fec) s t ∧
        t = { s with regs := t.regs, ports := t.ports }) ∧
      (nothingQueued y = true → Completes (.ctrlFlit g x errs .lpiPropose) s fun t =>
        (t.port g).ctrlq = [.lpiAccept] ∧ (t.port g).rxSeq = next ∧ RegsBut fec s t ∧ t = { s with regs := t.regs, ports := t.ports }) ∧
      ∀ a z u k dx dy dz pen lay q, Completes (.ctrlFlit g x errs (.identity a z u k dx dy dz pen lay q)) s fun t =>
        t.reg ⟨.fabGpPartner, g, 0⟩ = partnerWord [a, z, u] k ∧ (t.port g).rxSeq = next ∧ RegsBut (⟨.fabGpPartner, g, 0⟩ :: fec) s t ∧
        t = { s with regs := t.regs, ports := t.ports }) ∧
    (flitGood 0 (flitWord x) x.payload errs = true → Completes (.idleFlit g x errs) s fun t =>
      t.port g = y ∧ counted t ∧ RegsBut fec s t ∧ t = { s with regs := t.regs, ports := t.ports }) ∧
    ∀ i, flitGood 3 (flitWord x) x.payload errs = true → y.replay.findIdx? (fun f => f.seq == hdrSeq h) = some i → Completes (.nak g x errs) s fun t =>
      (t.port g).back = y.replay.length - i ∧ (t.port g).replay = y.replay ∧ (t.port g).nakSeq = hdrSeq h ∧
      t.reg ⟨.fabGpReplays, g, 0⟩ = s.reg ⟨.fabGpReplays, g, 0⟩ + 1 ∧ RegsBut (⟨.fabGpReplays, g, 0⟩ :: fec) s t ∧
      t = { s with regs := t.regs, ports := t.ports }) ∧
  ∀ (g : PortIx) (s : State), portUp s g = true →
    let y := s.port g
    let ack := (y.rxSeq + 4095) % 4096
    let wait : List Reg := [⟨.fabGpCreditWait, g, 0⟩]
    let only (t : State) : Prop := t = { s with out := t.out, regs := t.regs, ports := t.ports }
    (4095 ≤ y.sinceIdle ∨ (y.nakDue = false ∧ y.back = 0 ∧ (1536 ≤ y.replay.length ∨ y.ctrlq = [] ∧ arbitrate y = none)) → Completes (.flitTransmit g) s fun t =>
      SentFlit g (flitHdr 0 0 0 ack y.rxAny false) (openPayload 0 []) (fun w => .bareFlit g w (openPayload 0 [])) s t ∧
      (t.port g).sinceIdle = 0 ∧ (t.port g).replay = y.replay ∧ (t.port g).txq = y.txq ∧ RegsBut wait s t ∧ only t) ∧
    (y.sinceIdle < 4095 →
      (y.nakDue = true → Completes (.flitTransmit g) s fun t =>
        SentFlit g (flitHdr 3 0 y.rxSeq ack y.rxAny false) (openPayload 1 []) (fun w => .bareFlit g w (openPayload 1 [])) s t ∧
        (t.port g).nakDue = false ∧ (t.port g).replay = y.replay ∧ RegsBut wait s t ∧ only t) ∧
      (∀ f, y.nakDue = false → 0 < y.back → y.replay[y.replay.length - y.back]? = some f → f.ctrl = none → Completes (.flitTransmit g) s fun t =>
        SentFlit g (flitHdr 1 f.vc f.seq ack y.rxAny f.last) f.payload (fun w => .flit g w f.payload) s t ∧
        (t.port g).back = y.back - 1 ∧ (t.port g).replay = y.replay ∧ RegsBut wait s t ∧ only t) ∧
      (y.nakDue = false → y.back = 0 → y.replay.length < 1536 →
        (∀ c cs, y.ctrlq = c :: cs → Completes (.flitTransmit g) s fun t =>
          SentFlit g (flitHdr 2 0 y.txSeq ack y.rxAny false) (ctrlPayload c) (fun w => .ctrlFlit g w (ctrlPayload c) c) s t ∧
          (t.port g).txSeq = (y.txSeq + 1) % 4096 ∧ (t.port g).ctrlq = cs ∧
          (t.port g).replay = y.replay ++ [{ seq := y.txSeq, ctrl := some c, vc := 0, last := false, payload := [], tag := none }] ∧
          RegsBut (⟨.fabGpStatus, g, 0⟩ :: wait) s t ∧ only t) ∧
        ∀ vc turn k, y.ctrlq = [] → arbitrate y = some (vc, turn) → vcPick y vc = some k → Completes (.flitTransmit g) s fun t =>
          let last := decide (k.flits.length ≤ 1)
          let data := k.flits.headD []
          SentFlit g (flitHdr 1 vc y.txSeq ack y.rxAny last) data (fun w => .flit g w data) s t ∧
          (t.port g).txSeq = (y.txSeq + 1) % 4096 ∧
          (t.port g).replay = y.replay ++ [{ seq := y.txSeq, ctrl := none, vc := vc, last := last, payload := data, tag := k.tag, part := k.part }] ∧
          t.reg ⟨.fabGpTxFlits, g, 0⟩ = s.reg ⟨.fabGpTxFlits, g, 0⟩ + (if k.sent = 0 then 1 else 0) ∧
          RegsBut (⟨.fabGpTxFlits, g, 0⟩ :: wait) s t ∧ only t))

/-- Fast retrain, low-power idle and recalibration: eight replays of one SEQ start a retrain, even in a recalibration, which then ends (R368);
it ends as before, or narrowed with code 0x4002, with the flits from that SEQ on to be sent again, or DOWN with code 0x4001 (R349, R363,
R364). A port of a folded module with nothing queued proposes low-power idle; in it the port refreshes, and wakes by its partner's pattern
or by a cause of its own (R366). A due port in an idle window, or one without a window for 10 s, recalibrates: the end with the lower rank
starts it and tells the partner, and it ends UP, counted (R367). -/
def Obligations.PortUpkeep : Prop :=
  ∀ (g : PortIx) (s : State),
    let r : Reg := ⟨.fabGpStatus, g, 0⟩
    let y := s.port g
    (portUp s g = true ∨ portState s g = 3 → 8 ≤ y.nakCount → Completes (.fastRetrain g) s fun t =>
      (t.port g).retraining = true ∧ portUp t g = false ∧ portState t g = 2 ∧ RegsBut [r] s t ∧ t = { s with regs := t.regs, ports := t.ports }) ∧
    (∀ lanes : BitVec 8, y.retraining = true →
      let old := s.get F.fabGpStatusLanesUp g
      let live := lanes.toNat % 256 &&& old
      let again (t : State) : Prop := (t.port g).retraining = false ∧ (t.port g).nakCount = 0 ∧ (t.port g).replay = y.replay ∧
        ∀ i, y.replay.findIdx? (fun f => f.seq == y.nakSeq) = some i → (t.port g).back = y.replay.length - i
      (live = old → Completes (.fastRetrainComplete g lanes) s fun t => again t ∧ t = { s with ports := t.ports }) ∧
      (∀ l v, live ≠ old → laneSet live = some (l, v) → Completes (.fastRetrainComplete g lanes) s fun t =>
        t.get F.fabGpStatusLanesUp g = l ∧ t.get F.fabGpStatusWidth g = v ∧ t.flag F.fabGpStatusNarrowed g = true ∧
        again t ∧ (∃ x ∈ t.log, x.code = 0x4002) ∧ t.mem = s.mem) ∧
      (live ≠ old → laneSet live = none → Completes (.fastRetrainComplete g lanes) s fun t =>
        t.get F.fabGpStatusState g = 5 ∧ t.get F.fabGpStatusLanesUp g = 0 ∧ (t.port g).txq = y.txq ∧ (t.port g).replay = y.replay ∧
        (∃ x ∈ t.log, x.code = 0x4001) ∧ t.mem = s.mem)) ∧
    (portUp s g = true → allFolded s = true → nothingQueued y = true → y.lpiAsked = false → Completes (.lpiEntry g) s fun t =>
      (t.port g).ctrlq = [.lpiPropose] ∧ t = { s with ports := t.ports }) ∧
    (s.flag F.fabGpStatusLpi g = true →
      (Completes (.lpiRefresh g) s fun t => t = { s with out := s.out ++ [.lpiPattern g false] }) ∧
      (Completes (.lpiWake (.partner g)) s fun t => t.flag F.fabGpStatusLpi g = false ∧ OnlyRegs [r] s t) ∧
      (lpiOver s g = true → Completes (.lpiWake (.own g)) s fun t =>
        t.flag F.fabGpStatusLpi g = false ∧ t.out = s.out ++ [.lpiPattern g true] ∧ RegsBut [r] s t ∧ t = { s with regs := t.regs, out := t.out })) ∧
    (portUp s g = true → recalStarter s g = true → ∀ i, (i = .recalStart g ∧ recalDue s g = true ∧ recalWindow s g = true) ∨ (i = .recalForced g ∧ 10000000000 ≤ y.calAge) →
      Completes i s fun t =>
        portState t g = 3 ∧ (t.port g).ctrlq = .recalStart :: y.ctrlq ∧ RegsBut [r] s t ∧ t = { s with regs := t.regs, ports := t.ports }) ∧
    (portState s g = 3 → Completes (.recalComplete g) s fun t =>
      portState t g = 2 ∧ (t.port g).due = false ∧ (t.port g).calAge = 0 ∧ t.reg ⟨.fabGpRecals, g, 0⟩ = s.reg ⟨.fabGpRecals, g, 0⟩ + 1 ∧
      (t.port g).ctrlq = y.ctrlq ++ (if recalStarter s g then [.recalEnd] else []) ∧
      RegsBut [r, ⟨.fabGpRecals, g, 0⟩] s t ∧ t = { s with regs := t.regs, ports := t.ports })

/-- Each hop of the route of R356 goes along the first axis on which the packet is not yet where it is bound, to the next module of that
axis in the direction with the fewer hops, the positive one where both need as many; the number of hops left on the axis falls by one,
where the module stands at the destination there is no hop, and nothing but the torus and the positions decides. A packet whose last
flit arrives whole waits for the port of its hop. -/
def Obligations.RouteApproaches : Prop :=
  (∀ (dest : Nat) (s : State), (∀ k < 3, s.coords.getD k 0 < s.dims.getD k 1 ∧ (rankXyz dest).getD k 0 < s.dims.getD k 1) →
    let hops (me : List Nat) (k : Nat) : Nat :=
      let n := s.dims.getD k 1
      let d := ((rankXyz dest).getD k 0 + n - me.getD k 0) % n
      min d (n - d)
    (routePort s dest = none ↔ rankXyz dest = s.coords) ∧
    (∀ t : State, t.coords = s.coords → t.dims = s.dims → routePort t dest = routePort s dest) ∧
    ∀ g, routePort s dest = some g → g < 6 ∧ (2 * hops s.coords (g / 2) = s.dims.getD (g / 2) 1 → g % 2 = 0) ∧ hops (neighbour s g) (g / 2) + 1 = hops s.coords (g / 2) ∧
      (∀ k < g / 2, (rankXyz dest).getD k 0 = s.coords.getD k 0) ∧
      ∀ k < 3, k ≠ g / 2 → (neighbour s g).getD k 0 = s.coords.getD k 0) ∧
  ∀ (g : PortIx) (x : RxFlit) (errs : List Nat) (s : State), portUp s g = true →
    let h := flitWord x % 2 ^ 32
    let bs := (tget (s.port g).rx (h / 8 % 8) [] ++ [x.payload]).flatten
    flitGood 1 (flitWord x) x.payload errs = true → hdrSeq h = (s.port g).rxSeq → h / 2 ^ 31 = 1 →
    ∀ k, routePort s (natOf (bs.take 8) % 4096) = some k → Completes (.dataFlit g x.hdr x.crc x.payload errs) s fun t =>
      (t.port k).txq = (s.port k).txq ++ [{ vc := h / 8 % 8, part := natOf (bs.take 8) / 4096 % 4, tag := none, flits := pktFlits bs }] ∧
      t = { s with regs := t.regs, ports := t.ports }

/-! ### Tally and the verdict -/

/-- Collectives: in a partition that is not folded (R442, R443), an operand read gives the block this rank's elements (R382) and a packet in
sequence becomes the first copy of its stage
(R399, R406), and one of a generation that is neither in force nor waiting is a partition fault with code 0x5003 (R410); a finished
collective leaves the list and adds 1 to its gate (R379); after RED_WAIT_LIMIT it does so as MISSING, with code 0x5001 (R404). -/
def Obligations.Collectives : Prop :=
  ∀ (p : PartIx) (seq : Word) (b : Nat) (c : Coll) (s : State), s.Inv → findColl s p seq.toNat = some c →
    (folded s p = false → b < blockCount c.c → (tget c.blks b {}).own = none → contributes s p c b = true →
      (∀ xs sc pk, readOperand s p c b = (.ok xs, .ok sc, .ok pk) → Completes (.tallyOperandRead p seq b) s fun t =>
        ∃ d, findColl t p seq.toNat = some d ∧ d.c = c.c ∧ (tget d.blks b {}).own.isSome = true)) ∧
    (∀ x, folded s p = false → (s.part p).tally.rx = [x] →
      let h := parseTHdr x.bytes
      h.seq = seq.toNat → h.kind < 5 →
      (packetFate s p h = .use → c.c.kind ≠ .stepClose → h.block < blockCount c.c →
        (h.stage = 3 ∨ ∃ g ∈ stagesOf s p (acting s p).1 false c.c.group h.block, g.axis = h.stage) → Completes (.tallyPacket p) s fun t =>
          ∃ d, findColl t p seq.toNat = some d ∧ d.c = c.c ∧ ∃ f ∈ (tget d.blks h.block {}).firsts, f.stage = h.stage) ∧
      (genFate s p h.gen = .bad 0x5003 → s.flag F.fltPartStatusFaulted p = false → Completes (.tallyPacket p) s fun t =>
        t.flag F.fltPartStatusFaulted p = true ∧ t.get F.fltPartStatusCode p = 0x5003 ∧ (t.part p).tally.rx = [] ∧ t.mem = s.mem)) ∧
    (c.c.kind ≠ .stepClose →
      ((∀ b < blockCount c.c, blkDone s p c b = true) → allSent s p seq.toNat = true → c.flag = false →
        Completes (.collectiveDone p seq) s fun t =>
          findColl t p seq.toNat = none ∧ t.gate c.c.gate = (s.gate c.c.gate + 1) % 2 ^ 32 ∧
          t.reg ⟨.redCollectives, p, 0⟩ = s.reg ⟨.redCollectives, p, 0⟩ + 1 ∧ t.mem = s.mem) ∧
      (closeOf s p = none → Completes (.collectiveMissing p seq) s fun t =>
        findColl t p seq.toNat = none ∧ t.gate c.c.gate = (s.gate c.c.gate + 1) % 2 ^ 32 ∧
        t.reg ⟨.redMissing, p, 0⟩ = s.reg ⟨.redMissing, p, 0⟩ + 1 ∧ ∃ x ∈ t.log, x.code = 0x5001))

/-- An abort of the step, by FORCE of the owner while a layout waits or by the ABORT packet of the present step: every collective but
STEP_CLOSE leaves the list, and the log has code 0x5008 (R411); FORCE with no layout waiting is marked. -/
def Obligations.StepAbort : Prop :=
  ∀ (p : PartIx) (s : State),
    (∀ f, Reaches f ⟨.redLayout, p, 0⟩ s → s.owns f p = true →
      (s.flag F.redLayoutPending p = true → Completes (.layoutForce f p) s fun t =>
        (∀ d ∈ (t.part p).tally.list, d.c.kind = .stepClose) ∧ ∃ x ∈ t.log, x.code = 0x5008) ∧
      (s.flag F.redLayoutPending p = false → Completes (.layoutForce f p) s fun t =>
        t.flag F.cfgErrMismatch f.idx = true ∧ OnlyRegs (errRegs f) s t)) ∧
    ∀ x, folded s p = false → (s.part p).tally.rx = [x] →
      let h := parseTHdr x.bytes
      let step := natOf ((x.bytes.drop 32).take 8)
      let now := s.get F.hostTrainStepStep p % 2 ^ 48
      h.kind = 6 →
      (step < now → Completes (.abortPacket p) s fun t => (t.part p).tally.rx = [] ∧ t = { s with parts := t.parts, ports := t.ports }) ∧
      (step = now → genFate s p h.gen = .use → Completes (.abortPacket p) s fun t =>
        (∀ d ∈ (t.part p).tally.list, d.c.kind = .stepClose) ∧ ∃ x ∈ t.log, x.code = 0x5008)

/-- The verdict: at the boundary that a VERDICT packet of the present step brings, HOST_TRAIN_STEP adds 1, HOST_TRAIN_APPLIED adds 1
with COMMIT alone, FRESH clears, and, with no record to write, LAST_VERDICT holds the code and STEP_CLOSE's gate adds 1 (R297, R298); a
packet that fails its CRC or names another step is a partition fault with code 0x5006 (R409); a root that has waited its limit forms its
verdict (R408); no verdict in time is code 0x5007 (R409). -/
def Obligations.VerdictBoundary : Prop :=
  ∀ (p : PartIx) (c : Coll) (s : State), s.Inv → closeOf s p = some c →
    (∀ x, folded s p = false → (s.part p).tally.rx = [x] →
      let h := parseTHdr x.bytes
      let payload := (x.bytes.drop 32).take 16
      let v := parseVerdict payload
      h.kind = 5 → findColl s p h.seq = some c → genFate s p h.gen = .use →
      (crc32 payload = h.pcrc → v.step = s.get F.hostTrainStepStep p % 2 ^ 48 → s.get F.hostTrainRecAddr p = 0 → (s.part p).boundary = [] →
        Completes (.verdict p) s fun t =>
          t.reg ⟨.hostTrainStep, p, 0⟩ = s.reg ⟨.hostTrainStep, p, 0⟩ + 1 ∧
          t.reg ⟨.hostTrainApplied, p, 0⟩ = s.reg ⟨.hostTrainApplied, p, 0⟩ + (if v.code = 0 then 1 else 0) ∧
          t.flag F.hostTrainStatusFresh p = false ∧ t.get F.hostTrainStatusLastVerdict p = v.code ∧
          t.gate c.c.gate = (s.gate c.c.gate + 1) % 2 ^ 32 ∧ findColl t p h.seq = none) ∧
      (crc32 payload ≠ h.pcrc ∨ v.step ≠ s.get F.hostTrainStepStep p % 2 ^ 48 → s.flag F.fltPartStatusFaulted p = false →
        Completes (.verdict p) s fun t =>
          t.flag F.fltPartStatusFaulted p = true ∧ t.get F.fltPartStatusCode p = 0x5006 ∧ t.reg ⟨.hostTrainStep, p, 0⟩ = s.reg ⟨.hostTrainStep, p, 0⟩)) ∧
    ((∀ g ∈ stagesOf s p (acting s p).1 true 4 0, g.pos + 1 = g.n) → (acting s p).2 = false → c.closeGone = false →
      Completes (.verdictWaitLimit p) s fun t => ∃ d, closeOf t p = some d ∧ d.seq = c.seq ∧ d.closeGone = true) ∧
    (s.flag F.fltPartStatusFaulted p = false → Completes (.verdictTimeout p) s fun t =>
      t.flag F.fltPartStatusFaulted p = true ∧ t.get F.fltPartStatusCode p = 0x5007 ∧ (t.part p).draining = true ∧ t.mem = s.mem)
end

