-- ==== Sys2Proof/Laws/State.lean ====
section
/-! SUPPORT. What each single update does to each field of the state, and what its own field then holds. -/

namespace Sys2Proof.Machine

/-! ### Fields that an update leaves -/

@[simp] theorem Upd.reg_pending (r : Reg) (v : DWord) (s : State) : (Upd.apply (.reg r v) s).pending = s.pending := rfl
@[simp] theorem Upd.reg_staged (r : Reg) (v : DWord) (s : State) : (Upd.apply (.reg r v) s).staged = s.staged := rfl
@[simp] theorem Upd.reg_mem (r : Reg) (v : DWord) (s : State) : (Upd.apply (.reg r v) s).mem = s.mem := rfl
@[simp] theorem Upd.reg_fns (r : Reg) (v : DWord) (s : State) : (Upd.apply (.reg r v) s).fns = s.fns := rfl
@[simp] theorem Upd.reg_cores (r : Reg) (v : DWord) (s : State) : (Upd.apply (.reg r v) s).cores = s.cores := rfl
@[simp] theorem Upd.reg_dies (r : Reg) (v : DWord) (s : State) : (Upd.apply (.reg r v) s).dies = s.dies := rfl
@[simp] theorem Upd.reg_parts (r : Reg) (v : DWord) (s : State) : (Upd.apply (.reg r v) s).parts = s.parts := rfl
@[simp] theorem Upd.reg_queues (r : Reg) (v : DWord) (s : State) : (Upd.apply (.reg r v) s).queues = s.queues := rfl
@[simp] theorem Upd.reg_tasks (r : Reg) (v : DWord) (s : State) : (Upd.apply (.reg r v) s).tasks = s.tasks := rfl
@[simp] theorem Upd.reg_reqs (r : Reg) (v : DWord) (s : State) : (Upd.apply (.reg r v) s).reqs = s.reqs := rfl
@[simp] theorem Upd.reg_stores (r : Reg) (v : DWord) (s : State) : (Upd.apply (.reg r v) s).stores = s.stores := rfl
@[simp] theorem Upd.reg_nextId (r : Reg) (v : DWord) (s : State) : (Upd.apply (.reg r v) s).nextId = s.nextId := rfl
@[simp] theorem Upd.reg_log (r : Reg) (v : DWord) (s : State) : (Upd.apply (.reg r v) s).log = s.log := rfl
@[simp] theorem Upd.reg_logCount (r : Reg) (v : DWord) (s : State) : (Upd.apply (.reg r v) s).logCount = s.logCount := rfl
@[simp] theorem Upd.reg_tstat (r : Reg) (v : DWord) (s : State) : (Upd.apply (.reg r v) s).tstat = s.tstat := rfl
@[simp] theorem Upd.reg_ce (r : Reg) (v : DWord) (s : State) : (Upd.apply (.reg r v) s).ce = s.ce := rfl
@[simp] theorem Upd.reg_ports (r : Reg) (v : DWord) (s : State) : (Upd.apply (.reg r v) s).ports = s.ports := rfl
@[simp] theorem Upd.reg_power (r : Reg) (v : DWord) (s : State) : (Upd.apply (.reg r v) s).power = s.power := rfl
@[simp] theorem Upd.reg_sec (r : Reg) (v : DWord) (s : State) : (Upd.apply (.reg r v) s).sec = s.sec := rfl
@[simp] theorem Upd.reg_nvs (r : Reg) (v : DWord) (s : State) : (Upd.apply (.reg r v) s).nvs = s.nvs := rfl
@[simp] theorem Upd.reg_deferred (r : Reg) (v : DWord) (s : State) : (Upd.apply (.reg r v) s).deferred = s.deferred := rfl
@[simp] theorem Upd.reg_out (r : Reg) (v : DWord) (s : State) : (Upd.apply (.reg r v) s).out = s.out := rfl
@[simp] theorem Upd.reg_free (r : Reg) (v : DWord) (s : State) : (Upd.apply (.reg r v) s).free = s.free := rfl
@[simp] theorem Upd.fld_pending (f : Fld) (i j v : Nat) (s : State) : (Upd.apply (.fld f i j v) s).pending = s.pending := rfl
@[simp] theorem Upd.fld_staged (f : Fld) (i j v : Nat) (s : State) : (Upd.apply (.fld f i j v) s).staged = s.staged := rfl
@[simp] theorem Upd.fld_mem (f : Fld) (i j v : Nat) (s : State) : (Upd.apply (.fld f i j v) s).mem = s.mem := rfl
@[simp] theorem Upd.fld_fns (f : Fld) (i j v : Nat) (s : State) : (Upd.apply (.fld f i j v) s).fns = s.fns := rfl
@[simp] theorem Upd.fld_cores (f : Fld) (i j v : Nat) (s : State) : (Upd.apply (.fld f i j v) s).cores = s.cores := rfl
@[simp] theorem Upd.fld_dies (f : Fld) (i j v : Nat) (s : State) : (Upd.apply (.fld f i j v) s).dies = s.dies := rfl
@[simp] theorem Upd.fld_parts (f : Fld) (i j v : Nat) (s : State) : (Upd.apply (.fld f i j v) s).parts = s.parts := rfl
@[simp] theorem Upd.fld_queues (f : Fld) (i j v : Nat) (s : State) : (Upd.apply (.fld f i j v) s).queues = s.queues := rfl
@[simp] theorem Upd.fld_tasks (f : Fld) (i j v : Nat) (s : State) : (Upd.apply (.fld f i j v) s).tasks = s.tasks := rfl
@[simp] theorem Upd.fld_reqs (f : Fld) (i j v : Nat) (s : State) : (Upd.apply (.fld f i j v) s).reqs = s.reqs := rfl
@[simp] theorem Upd.fld_stores (f : Fld) (i j v : Nat) (s : State) : (Upd.apply (.fld f i j v) s).stores = s.stores := rfl
@[simp] theorem Upd.fld_nextId (f : Fld) (i j v : Nat) (s : State) : (Upd.apply (.fld f i j v) s).nextId = s.nextId := rfl
@[simp] theorem Upd.fld_log (f : Fld) (i j v : Nat) (s : State) : (Upd.apply (.fld f i j v) s).log = s.log := rfl
@[simp] theorem Upd.fld_logCount (f : Fld) (i j v : Nat) (s : State) : (Upd.apply (.fld f i j v) s).logCount = s.logCount := rfl
@[simp] theorem Upd.fld_tstat (f : Fld) (i j v : Nat) (s : State) : (Upd.apply (.fld f i j v) s).tstat = s.tstat := rfl
@[simp] theorem Upd.fld_ce (f : Fld) (i j v : Nat) (s : State) : (Upd.apply (.fld f i j v) s).ce = s.ce := rfl
@[simp] theorem Upd.fld_ports (f : Fld) (i j v : Nat) (s : State) : (Upd.apply (.fld f i j v) s).ports = s.ports := rfl
@[simp] theorem Upd.fld_power (f : Fld) (i j v : Nat) (s : State) : (Upd.apply (.fld f i j v) s).power = s.power := rfl
@[simp] theorem Upd.fld_sec (f : Fld) (i j v : Nat) (s : State) : (Upd.apply (.fld f i j v) s).sec = s.sec := rfl
@[simp] theorem Upd.fld_nvs (f : Fld) (i j v : Nat) (s : State) : (Upd.apply (.fld f i j v) s).nvs = s.nvs := rfl
@[simp] theorem Upd.fld_deferred (f : Fld) (i j v : Nat) (s : State) : (Upd.apply (.fld f i j v) s).deferred = s.deferred := rfl
@[simp] theorem Upd.fld_out (f : Fld) (i j v : Nat) (s : State) : (Upd.apply (.fld f i j v) s).out = s.out := rfl
@[simp] theorem Upd.fld_free (f : Fld) (i j v : Nat) (s : State) : (Upd.apply (.fld f i j v) s).free = s.free := rfl
@[simp] theorem Upd.add_pending (r : Reg) (n : Nat) (s : State) : (Upd.apply (.add r n) s).pending = s.pending := rfl
@[simp] theorem Upd.add_staged (r : Reg) (n : Nat) (s : State) : (Upd.apply (.add r n) s).staged = s.staged := rfl
@[simp] theorem Upd.add_mem (r : Reg) (n : Nat) (s : State) : (Upd.apply (.add r n) s).mem = s.mem := rfl
@[simp] theorem Upd.add_fns (r : Reg) (n : Nat) (s : State) : (Upd.apply (.add r n) s).fns = s.fns := rfl
@[simp] theorem Upd.add_cores (r : Reg) (n : Nat) (s : State) : (Upd.apply (.add r n) s).cores = s.cores := rfl
@[simp] theorem Upd.add_dies (r : Reg) (n : Nat) (s : State) : (Upd.apply (.add r n) s).dies = s.dies := rfl
@[simp] theorem Upd.add_parts (r : Reg) (n : Nat) (s : State) : (Upd.apply (.add r n) s).parts = s.parts := rfl
@[simp] theorem Upd.add_queues (r : Reg) (n : Nat) (s : State) : (Upd.apply (.add r n) s).queues = s.queues := rfl
@[simp] theorem Upd.add_tasks (r : Reg) (n : Nat) (s : State) : (Upd.apply (.add r n) s).tasks = s.tasks := rfl
@[simp] theorem Upd.add_reqs (r : Reg) (n : Nat) (s : State) : (Upd.apply (.add r n) s).reqs = s.reqs := rfl
@[simp] theorem Upd.add_stores (r : Reg) (n : Nat) (s : State) : (Upd.apply (.add r n) s).stores = s.stores := rfl
@[simp] theorem Upd.add_nextId (r : Reg) (n : Nat) (s : State) : (Upd.apply (.add r n) s).nextId = s.nextId := rfl
@[simp] theorem Upd.add_log (r : Reg) (n : Nat) (s : State) : (Upd.apply (.add r n) s).log = s.log := rfl
@[simp] theorem Upd.add_logCount (r : Reg) (n : Nat) (s : State) : (Upd.apply (.add r n) s).logCount = s.logCount := rfl
@[simp] theorem Upd.add_tstat (r : Reg) (n : Nat) (s : State) : (Upd.apply (.add r n) s).tstat = s.tstat := rfl
@[simp] theorem Upd.add_ce (r : Reg) (n : Nat) (s : State) : (Upd.apply (.add r n) s).ce = s.ce := rfl
@[simp] theorem Upd.add_ports (r : Reg) (n : Nat) (s : State) : (Upd.apply (.add r n) s).ports = s.ports := rfl
@[simp] theorem Upd.add_power (r : Reg) (n : Nat) (s : State) : (Upd.apply (.add r n) s).power = s.power := rfl
@[simp] theorem Upd.add_sec (r : Reg) (n : Nat) (s : State) : (Upd.apply (.add r n) s).sec = s.sec := rfl
@[simp] theorem Upd.add_nvs (r : Reg) (n : Nat) (s : State) : (Upd.apply (.add r n) s).nvs = s.nvs := rfl
@[simp] theorem Upd.add_deferred (r : Reg) (n : Nat) (s : State) : (Upd.apply (.add r n) s).deferred = s.deferred := rfl
@[simp] theorem Upd.add_out (r : Reg) (n : Nat) (s : State) : (Upd.apply (.add r n) s).out = s.out := rfl
@[simp] theorem Upd.add_free (r : Reg) (n : Nat) (s : State) : (Upd.apply (.add r n) s).free = s.free := rfl
@[simp] theorem Upd.stage_pending (r : Reg) (v : DWord) (s : State) : (Upd.apply (.stage r v) s).pending = s.pending := rfl
@[simp] theorem Upd.stage_regs (r : Reg) (v : DWord) (s : State) : (Upd.apply (.stage r v) s).regs = s.regs := rfl
@[simp] theorem Upd.stage_mem (r : Reg) (v : DWord) (s : State) : (Upd.apply (.stage r v) s).mem = s.mem := rfl
@[simp] theorem Upd.stage_fns (r : Reg) (v : DWord) (s : State) : (Upd.apply (.stage r v) s).fns = s.fns := rfl
@[simp] theorem Upd.stage_cores (r : Reg) (v : DWord) (s : State) : (Upd.apply (.stage r v) s).cores = s.cores := rfl
@[simp] theorem Upd.stage_dies (r : Reg) (v : DWord) (s : State) : (Upd.apply (.stage r v) s).dies = s.dies := rfl
@[simp] theorem Upd.stage_parts (r : Reg) (v : DWord) (s : State) : (Upd.apply (.stage r v) s).parts = s.parts := rfl
@[simp] theorem Upd.stage_queues (r : Reg) (v : DWord) (s : State) : (Upd.apply (.stage r v) s).queues = s.queues := rfl
@[simp] theorem Upd.stage_tasks (r : Reg) (v : DWord) (s : State) : (Upd.apply (.stage r v) s).tasks = s.tasks := rfl
@[simp] theorem Upd.stage_reqs (r : Reg) (v : DWord) (s : State) : (Upd.apply (.stage r v) s).reqs = s.reqs := rfl
@[simp] theorem Upd.stage_stores (r : Reg) (v : DWord) (s : State) : (Upd.apply (.stage r v) s).stores = s.stores := rfl
@[simp] theorem Upd.stage_nextId (r : Reg) (v : DWord) (s : State) : (Upd.apply (.stage r v) s).nextId = s.nextId := rfl
@[simp] theorem Upd.stage_log (r : Reg) (v : DWord) (s : State) : (Upd.apply (.stage r v) s).log = s.log := rfl
@[simp] theorem Upd.stage_logCount (r : Reg) (v : DWord) (s : State) : (Upd.apply (.stage r v) s).logCount = s.logCount := rfl
@[simp] theorem Upd.stage_tstat (r : Reg) (v : DWord) (s : State) : (Upd.apply (.stage r v) s).tstat = s.tstat := rfl
@[simp] theorem Upd.stage_ce (r : Reg) (v : DWord) (s : State) : (Upd.apply (.stage r v) s).ce = s.ce := rfl
@[simp] theorem Upd.stage_ports (r : Reg) (v : DWord) (s : State) : (Upd.apply (.stage r v) s).ports = s.ports := rfl
@[simp] theorem Upd.stage_power (r : Reg) (v : DWord) (s : State) : (Upd.apply (.stage r v) s).power = s.power := rfl
@[simp] theorem Upd.stage_sec (r : Reg) (v : DWord) (s : State) : (Upd.apply (.stage r v) s).sec = s.sec := rfl
@[simp] theorem Upd.stage_nvs (r : Reg) (v : DWord) (s : State) : (Upd.apply (.stage r v) s).nvs = s.nvs := rfl
@[simp] theorem Upd.stage_deferred (r : Reg) (v : DWord) (s : State) : (Upd.apply (.stage r v) s).deferred = s.deferred := rfl
@[simp] theorem Upd.stage_out (r : Reg) (v : DWord) (s : State) : (Upd.apply (.stage r v) s).out = s.out := rfl
@[simp] theorem Upd.stage_free (r : Reg) (v : DWord) (s : State) : (Upd.apply (.stage r v) s).free = s.free := rfl
@[simp] theorem Upd.resetReg_pending (r : Reg) (s : State) : (Upd.apply (.resetReg r) s).pending = s.pending := rfl
@[simp] theorem Upd.resetReg_staged (r : Reg) (s : State) : (Upd.apply (.resetReg r) s).staged = s.staged := rfl
@[simp] theorem Upd.resetReg_mem (r : Reg) (s : State) : (Upd.apply (.resetReg r) s).mem = s.mem := rfl
@[simp] theorem Upd.resetReg_fns (r : Reg) (s : State) : (Upd.apply (.resetReg r) s).fns = s.fns := rfl
@[simp] theorem Upd.resetReg_cores (r : Reg) (s : State) : (Upd.apply (.resetReg r) s).cores = s.cores := rfl
@[simp] theorem Upd.resetReg_dies (r : Reg) (s : State) : (Upd.apply (.resetReg r) s).dies = s.dies := rfl
@[simp] theorem Upd.resetReg_parts (r : Reg) (s : State) : (Upd.apply (.resetReg r) s).parts = s.parts := rfl
@[simp] theorem Upd.resetReg_queues (r : Reg) (s : State) : (Upd.apply (.resetReg r) s).queues = s.queues := rfl
@[simp] theorem Upd.resetReg_tasks (r : Reg) (s : State) : (Upd.apply (.resetReg r) s).tasks = s.tasks := rfl
@[simp] theorem Upd.resetReg_reqs (r : Reg) (s : State) : (Upd.apply (.resetReg r) s).reqs = s.reqs := rfl
@[simp] theorem Upd.resetReg_stores (r : Reg) (s : State) : (Upd.apply (.resetReg r) s).stores = s.stores := rfl
@[simp] theorem Upd.resetReg_nextId (r : Reg) (s : State) : (Upd.apply (.resetReg r) s).nextId = s.nextId := rfl
@[simp] theorem Upd.resetReg_log (r : Reg) (s : State) : (Upd.apply (.resetReg r) s).log = s.log := rfl
@[simp] theorem Upd.resetReg_logCount (r : Reg) (s : State) : (Upd.apply (.resetReg r) s).logCount = s.logCount := rfl
@[simp] theorem Upd.resetReg_tstat (r : Reg) (s : State) : (Upd.apply (.resetReg r) s).tstat = s.tstat := rfl
@[simp] theorem Upd.resetReg_ce (r : Reg) (s : State) : (Upd.apply (.resetReg r) s).ce = s.ce := rfl
@[simp] theorem Upd.resetReg_ports (r : Reg) (s : State) : (Upd.apply (.resetReg r) s).ports = s.ports := rfl
@[simp] theorem Upd.resetReg_power (r : Reg) (s : State) : (Upd.apply (.resetReg r) s).power = s.power := rfl
@[simp] theorem Upd.resetReg_sec (r : Reg) (s : State) : (Upd.apply (.resetReg r) s).sec = s.sec := rfl
@[simp] theorem Upd.resetReg_nvs (r : Reg) (s : State) : (Upd.apply (.resetReg r) s).nvs = s.nvs := rfl
@[simp] theorem Upd.resetReg_deferred (r : Reg) (s : State) : (Upd.apply (.resetReg r) s).deferred = s.deferred := rfl
@[simp] theorem Upd.resetReg_out (r : Reg) (s : State) : (Upd.apply (.resetReg r) s).out = s.out := rfl
@[simp] theorem Upd.resetReg_free (r : Reg) (s : State) : (Upd.apply (.resetReg r) s).free = s.free := rfl
@[simp] theorem Upd.unstage_pending (r : Reg) (s : State) : (Upd.apply (.unstage r) s).pending = s.pending := rfl
@[simp] theorem Upd.unstage_regs (r : Reg) (s : State) : (Upd.apply (.unstage r) s).regs = s.regs := rfl
@[simp] theorem Upd.unstage_mem (r : Reg) (s : State) : (Upd.apply (.unstage r) s).mem = s.mem := rfl
@[simp] theorem Upd.unstage_fns (r : Reg) (s : State) : (Upd.apply (.unstage r) s).fns = s.fns := rfl
@[simp] theorem Upd.unstage_cores (r : Reg) (s : State) : (Upd.apply (.unstage r) s).cores = s.cores := rfl
@[simp] theorem Upd.unstage_dies (r : Reg) (s : State) : (Upd.apply (.unstage r) s).dies = s.dies := rfl
@[simp] theorem Upd.unstage_parts (r : Reg) (s : State) : (Upd.apply (.unstage r) s).parts = s.parts := rfl
@[simp] theorem Upd.unstage_queues (r : Reg) (s : State) : (Upd.apply (.unstage r) s).queues = s.queues := rfl
@[simp] theorem Upd.unstage_tasks (r : Reg) (s : State) : (Upd.apply (.unstage r) s).tasks = s.tasks := rfl
@[simp] theorem Upd.unstage_reqs (r : Reg) (s : State) : (Upd.apply (.unstage r) s).reqs = s.reqs := rfl
@[simp] theorem Upd.unstage_stores (r : Reg) (s : State) : (Upd.apply (.unstage r) s).stores = s.stores := rfl
@[simp] theorem Upd.unstage_nextId (r : Reg) (s : State) : (Upd.apply (.unstage r) s).nextId = s.nextId := rfl
@[simp] theorem Upd.unstage_log (r : Reg) (s : State) : (Upd.apply (.unstage r) s).log = s.log := rfl
@[simp] theorem Upd.unstage_logCount (r : Reg) (s : State) : (Upd.apply (.unstage r) s).logCount = s.logCount := rfl
@[simp] theorem Upd.unstage_tstat (r : Reg) (s : State) : (Upd.apply (.unstage r) s).tstat = s.tstat := rfl
@[simp] theorem Upd.unstage_ce (r : Reg) (s : State) : (Upd.apply (.unstage r) s).ce = s.ce := rfl
@[simp] theorem Upd.unstage_ports (r : Reg) (s : State) : (Upd.apply (.unstage r) s).ports = s.ports := rfl
@[simp] theorem Upd.unstage_power (r : Reg) (s : State) : (Upd.apply (.unstage r) s).power = s.power := rfl
@[simp] theorem Upd.unstage_sec (r : Reg) (s : State) : (Upd.apply (.unstage r) s).sec = s.sec := rfl
@[simp] theorem Upd.unstage_nvs (r : Reg) (s : State) : (Upd.apply (.unstage r) s).nvs = s.nvs := rfl
@[simp] theorem Upd.unstage_deferred (r : Reg) (s : State) : (Upd.apply (.unstage r) s).deferred = s.deferred := rfl
@[simp] theorem Upd.unstage_out (r : Reg) (s : State) : (Upd.apply (.unstage r) s).out = s.out := rfl
@[simp] theorem Upd.unstage_free (r : Reg) (s : State) : (Upd.apply (.unstage r) s).free = s.free := rfl
@[simp] theorem Upd.cell_pending (a : Nat) (b : Byte) (s : State) : (Upd.apply (.cell a b) s).pending = s.pending := rfl
@[simp] theorem Upd.cell_regs (a : Nat) (b : Byte) (s : State) : (Upd.apply (.cell a b) s).regs = s.regs := rfl
@[simp] theorem Upd.cell_staged (a : Nat) (b : Byte) (s : State) : (Upd.apply (.cell a b) s).staged = s.staged := rfl
@[simp] theorem Upd.cell_fns (a : Nat) (b : Byte) (s : State) : (Upd.apply (.cell a b) s).fns = s.fns := rfl
@[simp] theorem Upd.cell_cores (a : Nat) (b : Byte) (s : State) : (Upd.apply (.cell a b) s).cores = s.cores := rfl
@[simp] theorem Upd.cell_dies (a : Nat) (b : Byte) (s : State) : (Upd.apply (.cell a b) s).dies = s.dies := rfl
@[simp] theorem Upd.cell_parts (a : Nat) (b : Byte) (s : State) : (Upd.apply (.cell a b) s).parts = s.parts := rfl
@[simp] theorem Upd.cell_queues (a : Nat) (b : Byte) (s : State) : (Upd.apply (.cell a b) s).queues = s.queues := rfl
@[simp] theorem Upd.cell_tasks (a : Nat) (b : Byte) (s : State) : (Upd.apply (.cell a b) s).tasks = s.tasks := rfl
@[simp] theorem Upd.cell_reqs (a : Nat) (b : Byte) (s : State) : (Upd.apply (.cell a b) s).reqs = s.reqs := rfl
@[simp] theorem Upd.cell_stores (a : Nat) (b : Byte) (s : State) : (Upd.apply (.cell a b) s).stores = s.stores := rfl
@[simp] theorem Upd.cell_nextId (a : Nat) (b : Byte) (s : State) : (Upd.apply (.cell a b) s).nextId = s.nextId := rfl
@[simp] theorem Upd.cell_log (a : Nat) (b : Byte) (s : State) : (Upd.apply (.cell a b) s).log = s.log := rfl
@[simp] theorem Upd.cell_logCount (a : Nat) (b : Byte) (s : State) : (Upd.apply (.cell a b) s).logCount = s.logCount := rfl
@[simp] theorem Upd.cell_tstat (a : Nat) (b : Byte) (s : State) : (Upd.apply (.cell a b) s).tstat = s.tstat := rfl
@[simp] theorem Upd.cell_ce (a : Nat) (b : Byte) (s : State) : (Upd.apply (.cell a b) s).ce = s.ce := rfl
@[simp] theorem Upd.cell_ports (a : Nat) (b : Byte) (s : State) : (Upd.apply (.cell a b) s).ports = s.ports := rfl
@[simp] theorem Upd.cell_power (a : Nat) (b : Byte) (s : State) : (Upd.apply (.cell a b) s).power = s.power := rfl
@[simp] theorem Upd.cell_sec (a : Nat) (b : Byte) (s : State) : (Upd.apply (.cell a b) s).sec = s.sec := rfl
@[simp] theorem Upd.cell_nvs (a : Nat) (b : Byte) (s : State) : (Upd.apply (.cell a b) s).nvs = s.nvs := rfl
@[simp] theorem Upd.cell_deferred (a : Nat) (b : Byte) (s : State) : (Upd.apply (.cell a b) s).deferred = s.deferred := rfl
@[simp] theorem Upd.cell_out (a : Nat) (b : Byte) (s : State) : (Upd.apply (.cell a b) s).out = s.out := rfl
@[simp] theorem Upd.cell_free (a : Nat) (b : Byte) (s : State) : (Upd.apply (.cell a b) s).free = s.free := rfl
@[simp] theorem Upd.reported_pending (g : Nat) (s : State) : (Upd.apply (.reported g) s).pending = s.pending := rfl
@[simp] theorem Upd.reported_regs (g : Nat) (s : State) : (Upd.apply (.reported g) s).regs = s.regs := rfl
@[simp] theorem Upd.reported_staged (g : Nat) (s : State) : (Upd.apply (.reported g) s).staged = s.staged := rfl
@[simp] theorem Upd.reported_fns (g : Nat) (s : State) : (Upd.apply (.reported g) s).fns = s.fns := rfl
@[simp] theorem Upd.reported_cores (g : Nat) (s : State) : (Upd.apply (.reported g) s).cores = s.cores := rfl
@[simp] theorem Upd.reported_dies (g : Nat) (s : State) : (Upd.apply (.reported g) s).dies = s.dies := rfl
@[simp] theorem Upd.reported_parts (g : Nat) (s : State) : (Upd.apply (.reported g) s).parts = s.parts := rfl
@[simp] theorem Upd.reported_queues (g : Nat) (s : State) : (Upd.apply (.reported g) s).queues = s.queues := rfl
@[simp] theorem Upd.reported_tasks (g : Nat) (s : State) : (Upd.apply (.reported g) s).tasks = s.tasks := rfl
@[simp] theorem Upd.reported_reqs (g : Nat) (s : State) : (Upd.apply (.reported g) s).reqs = s.reqs := rfl
@[simp] theorem Upd.reported_stores (g : Nat) (s : State) : (Upd.apply (.reported g) s).stores = s.stores := rfl
@[simp] theorem Upd.reported_nextId (g : Nat) (s : State) : (Upd.apply (.reported g) s).nextId = s.nextId := rfl
@[simp] theorem Upd.reported_log (g : Nat) (s : State) : (Upd.apply (.reported g) s).log = s.log := rfl
@[simp] theorem Upd.reported_logCount (g : Nat) (s : State) : (Upd.apply (.reported g) s).logCount = s.logCount := rfl
@[simp] theorem Upd.reported_tstat (g : Nat) (s : State) : (Upd.apply (.reported g) s).tstat = s.tstat := rfl
@[simp] theorem Upd.reported_ce (g : Nat) (s : State) : (Upd.apply (.reported g) s).ce = s.ce := rfl
@[simp] theorem Upd.reported_ports (g : Nat) (s : State) : (Upd.apply (.reported g) s).ports = s.ports := rfl
@[simp] theorem Upd.reported_power (g : Nat) (s : State) : (Upd.apply (.reported g) s).power = s.power := rfl
@[simp] theorem Upd.reported_sec (g : Nat) (s : State) : (Upd.apply (.reported g) s).sec = s.sec := rfl
@[simp] theorem Upd.reported_nvs (g : Nat) (s : State) : (Upd.apply (.reported g) s).nvs = s.nvs := rfl
@[simp] theorem Upd.reported_deferred (g : Nat) (s : State) : (Upd.apply (.reported g) s).deferred = s.deferred := rfl
@[simp] theorem Upd.reported_out (g : Nat) (s : State) : (Upd.apply (.reported g) s).out = s.out := rfl
@[simp] theorem Upd.reported_free (g : Nat) (s : State) : (Upd.apply (.reported g) s).free = s.free := rfl
@[simp] theorem Upd.fill_pending (lo hi : Nat) (u : Bool) (s : State) : (Upd.apply (.fill lo hi u) s).pending = s.pending := rfl
@[simp] theorem Upd.fill_regs (lo hi : Nat) (u : Bool) (s : State) : (Upd.apply (.fill lo hi u) s).regs = s.regs := rfl
@[simp] theorem Upd.fill_staged (lo hi : Nat) (u : Bool) (s : State) : (Upd.apply (.fill lo hi u) s).staged = s.staged := rfl
@[simp] theorem Upd.fill_fns (lo hi : Nat) (u : Bool) (s : State) : (Upd.apply (.fill lo hi u) s).fns = s.fns := rfl
@[simp] theorem Upd.fill_cores (lo hi : Nat) (u : Bool) (s : State) : (Upd.apply (.fill lo hi u) s).cores = s.cores := rfl
@[simp] theorem Upd.fill_dies (lo hi : Nat) (u : Bool) (s : State) : (Upd.apply (.fill lo hi u) s).dies = s.dies := rfl
@[simp] theorem Upd.fill_parts (lo hi : Nat) (u : Bool) (s : State) : (Upd.apply (.fill lo hi u) s).parts = s.parts := rfl
@[simp] theorem Upd.fill_queues (lo hi : Nat) (u : Bool) (s : State) : (Upd.apply (.fill lo hi u) s).queues = s.queues := rfl
@[simp] theorem Upd.fill_tasks (lo hi : Nat) (u : Bool) (s : State) : (Upd.apply (.fill lo hi u) s).tasks = s.tasks := rfl
@[simp] theorem Upd.fill_reqs (lo hi : Nat) (u : Bool) (s : State) : (Upd.apply (.fill lo hi u) s).reqs = s.reqs := rfl
@[simp] theorem Upd.fill_stores (lo hi : Nat) (u : Bool) (s : State) : (Upd.apply (.fill lo hi u) s).stores = s.stores := rfl
@[simp] theorem Upd.fill_nextId (lo hi : Nat) (u : Bool) (s : State) : (Upd.apply (.fill lo hi u) s).nextId = s.nextId := rfl
@[simp] theorem Upd.fill_log (lo hi : Nat) (u : Bool) (s : State) : (Upd.apply (.fill lo hi u) s).log = s.log := rfl
@[simp] theorem Upd.fill_logCount (lo hi : Nat) (u : Bool) (s : State) : (Upd.apply (.fill lo hi u) s).logCount = s.logCount := rfl
@[simp] theorem Upd.fill_tstat (lo hi : Nat) (u : Bool) (s : State) : (Upd.apply (.fill lo hi u) s).tstat = s.tstat := rfl
@[simp] theorem Upd.fill_ce (lo hi : Nat) (u : Bool) (s : State) : (Upd.apply (.fill lo hi u) s).ce = s.ce := rfl
@[simp] theorem Upd.fill_ports (lo hi : Nat) (u : Bool) (s : State) : (Upd.apply (.fill lo hi u) s).ports = s.ports := rfl
@[simp] theorem Upd.fill_power (lo hi : Nat) (u : Bool) (s : State) : (Upd.apply (.fill lo hi u) s).power = s.power := rfl
@[simp] theorem Upd.fill_sec (lo hi : Nat) (u : Bool) (s : State) : (Upd.apply (.fill lo hi u) s).sec = s.sec := rfl
@[simp] theorem Upd.fill_nvs (lo hi : Nat) (u : Bool) (s : State) : (Upd.apply (.fill lo hi u) s).nvs = s.nvs := rfl
@[simp] theorem Upd.fill_deferred (lo hi : Nat) (u : Bool) (s : State) : (Upd.apply (.fill lo hi u) s).deferred = s.deferred := rfl
@[simp] theorem Upd.fill_out (lo hi : Nat) (u : Bool) (s : State) : (Upd.apply (.fill lo hi u) s).out = s.out := rfl
@[simp] theorem Upd.clearMem_pending (s : State) : (Upd.apply .clearMem s).pending = s.pending := rfl
@[simp] theorem Upd.clearMem_regs (s : State) : (Upd.apply .clearMem s).regs = s.regs := rfl
@[simp] theorem Upd.clearMem_staged (s : State) : (Upd.apply .clearMem s).staged = s.staged := rfl
@[simp] theorem Upd.clearMem_fns (s : State) : (Upd.apply .clearMem s).fns = s.fns := rfl
@[simp] theorem Upd.clearMem_cores (s : State) : (Upd.apply .clearMem s).cores = s.cores := rfl
@[simp] theorem Upd.clearMem_dies (s : State) : (Upd.apply .clearMem s).dies = s.dies := rfl
@[simp] theorem Upd.clearMem_parts (s : State) : (Upd.apply .clearMem s).parts = s.parts := rfl
@[simp] theorem Upd.clearMem_queues (s : State) : (Upd.apply .clearMem s).queues = s.queues := rfl
@[simp] theorem Upd.clearMem_tasks (s : State) : (Upd.apply .clearMem s).tasks = s.tasks := rfl
@[simp] theorem Upd.clearMem_reqs (s : State) : (Upd.apply .clearMem s).reqs = s.reqs := rfl
@[simp] theorem Upd.clearMem_stores (s : State) : (Upd.apply .clearMem s).stores = s.stores := rfl
@[simp] theorem Upd.clearMem_nextId (s : State) : (Upd.apply .clearMem s).nextId = s.nextId := rfl
@[simp] theorem Upd.clearMem_log (s : State) : (Upd.apply .clearMem s).log = s.log := rfl
@[simp] theorem Upd.clearMem_logCount (s : State) : (Upd.apply .clearMem s).logCount = s.logCount := rfl
@[simp] theorem Upd.clearMem_tstat (s : State) : (Upd.apply .clearMem s).tstat = s.tstat := rfl
@[simp] theorem Upd.clearMem_ce (s : State) : (Upd.apply .clearMem s).ce = s.ce := rfl
@[simp] theorem Upd.clearMem_ports (s : State) : (Upd.apply .clearMem s).ports = s.ports := rfl
@[simp] theorem Upd.clearMem_power (s : State) : (Upd.apply .clearMem s).power = s.power := rfl
@[simp] theorem Upd.clearMem_sec (s : State) : (Upd.apply .clearMem s).sec = s.sec := rfl
@[simp] theorem Upd.clearMem_nvs (s : State) : (Upd.apply .clearMem s).nvs = s.nvs := rfl
@[simp] theorem Upd.clearMem_deferred (s : State) : (Upd.apply .clearMem s).deferred = s.deferred := rfl
@[simp] theorem Upd.clearMem_out (s : State) : (Upd.apply .clearMem s).out = s.out := rfl
@[simp] theorem Upd.clearMem_free (s : State) : (Upd.apply .clearMem s).free = s.free := rfl
@[simp] theorem Upd.hostCell_pending (f : Fn) (a : Nat) (b : Byte) (s : State) : (Upd.apply (.hostCell f a b) s).pending = s.pending := rfl
@[simp] theorem Upd.hostCell_regs (f : Fn) (a : Nat) (b : Byte) (s : State) : (Upd.apply (.hostCell f a b) s).regs = s.regs := rfl
@[simp] theorem Upd.hostCell_staged (f : Fn) (a : Nat) (b : Byte) (s : State) : (Upd.apply (.hostCell f a b) s).staged = s.staged := rfl
@[simp] theorem Upd.hostCell_mem (f : Fn) (a : Nat) (b : Byte) (s : State) : (Upd.apply (.hostCell f a b) s).mem = s.mem := rfl
@[simp] theorem Upd.hostCell_cores (f : Fn) (a : Nat) (b : Byte) (s : State) : (Upd.apply (.hostCell f a b) s).cores = s.cores := rfl
@[simp] theorem Upd.hostCell_dies (f : Fn) (a : Nat) (b : Byte) (s : State) : (Upd.apply (.hostCell f a b) s).dies = s.dies := rfl
@[simp] theorem Upd.hostCell_parts (f : Fn) (a : Nat) (b : Byte) (s : State) : (Upd.apply (.hostCell f a b) s).parts = s.parts := rfl
@[simp] theorem Upd.hostCell_queues (f : Fn) (a : Nat) (b : Byte) (s : State) : (Upd.apply (.hostCell f a b) s).queues = s.queues := rfl
@[simp] theorem Upd.hostCell_tasks (f : Fn) (a : Nat) (b : Byte) (s : State) : (Upd.apply (.hostCell f a b) s).tasks = s.tasks := rfl
@[simp] theorem Upd.hostCell_reqs (f : Fn) (a : Nat) (b : Byte) (s : State) : (Upd.apply (.hostCell f a b) s).reqs = s.reqs := rfl
@[simp] theorem Upd.hostCell_stores (f : Fn) (a : Nat) (b : Byte) (s : State) : (Upd.apply (.hostCell f a b) s).stores = s.stores := rfl
@[simp] theorem Upd.hostCell_nextId (f : Fn) (a : Nat) (b : Byte) (s : State) : (Upd.apply (.hostCell f a b) s).nextId = s.nextId := rfl
@[simp] theorem Upd.hostCell_log (f : Fn) (a : Nat) (b : Byte) (s : State) : (Upd.apply (.hostCell f a b) s).log = s.log := rfl
@[simp] theorem Upd.hostCell_logCount (f : Fn) (a : Nat) (b : Byte) (s : State) : (Upd.apply (.hostCell f a b) s).logCount = s.logCount := rfl
@[simp] theorem Upd.hostCell_tstat (f : Fn) (a : Nat) (b : Byte) (s : State) : (Upd.apply (.hostCell f a b) s).tstat = s.tstat := rfl
@[simp] theorem Upd.hostCell_ce (f : Fn) (a : Nat) (b : Byte) (s : State) : (Upd.apply (.hostCell f a b) s).ce = s.ce := rfl
@[simp] theorem Upd.hostCell_ports (f : Fn) (a : Nat) (b : Byte) (s : State) : (Upd.apply (.hostCell f a b) s).ports = s.ports := rfl
@[simp] theorem Upd.hostCell_power (f : Fn) (a : Nat) (b : Byte) (s : State) : (Upd.apply (.hostCell f a b) s).power = s.power := rfl
@[simp] theorem Upd.hostCell_sec (f : Fn) (a : Nat) (b : Byte) (s : State) : (Upd.apply (.hostCell f a b) s).sec = s.sec := rfl
@[simp] theorem Upd.hostCell_nvs (f : Fn) (a : Nat) (b : Byte) (s : State) : (Upd.apply (.hostCell f a b) s).nvs = s.nvs := rfl
@[simp] theorem Upd.hostCell_deferred (f : Fn) (a : Nat) (b : Byte) (s : State) : (Upd.apply (.hostCell f a b) s).deferred = s.deferred := rfl
@[simp] theorem Upd.hostCell_out (f : Fn) (a : Nat) (b : Byte) (s : State) : (Upd.apply (.hostCell f a b) s).out = s.out := rfl
@[simp] theorem Upd.hostCell_free (f : Fn) (a : Nat) (b : Byte) (s : State) : (Upd.apply (.hostCell f a b) s).free = s.free := rfl
@[simp] theorem Upd.fn_pending (f : Fn) (g : FnState → FnState) (s : State) : (Upd.apply (.fn f g) s).pending = s.pending := rfl
@[simp] theorem Upd.fn_regs (f : Fn) (g : FnState → FnState) (s : State) : (Upd.apply (.fn f g) s).regs = s.regs := rfl
@[simp] theorem Upd.fn_staged (f : Fn) (g : FnState → FnState) (s : State) : (Upd.apply (.fn f g) s).staged = s.staged := rfl
@[simp] theorem Upd.fn_mem (f : Fn) (g : FnState → FnState) (s : State) : (Upd.apply (.fn f g) s).mem = s.mem := rfl
@[simp] theorem Upd.fn_cores (f : Fn) (g : FnState → FnState) (s : State) : (Upd.apply (.fn f g) s).cores = s.cores := rfl
@[simp] theorem Upd.fn_dies (f : Fn) (g : FnState → FnState) (s : State) : (Upd.apply (.fn f g) s).dies = s.dies := rfl
@[simp] theorem Upd.fn_parts (f : Fn) (g : FnState → FnState) (s : State) : (Upd.apply (.fn f g) s).parts = s.parts := rfl
@[simp] theorem Upd.fn_queues (f : Fn) (g : FnState → FnState) (s : State) : (Upd.apply (.fn f g) s).queues = s.queues := rfl
@[simp] theorem Upd.fn_tasks (f : Fn) (g : FnState → FnState) (s : State) : (Upd.apply (.fn f g) s).tasks = s.tasks := rfl
@[simp] theorem Upd.fn_reqs (f : Fn) (g : FnState → FnState) (s : State) : (Upd.apply (.fn f g) s).reqs = s.reqs := rfl
@[simp] theorem Upd.fn_stores (f : Fn) (g : FnState → FnState) (s : State) : (Upd.apply (.fn f g) s).stores = s.stores := rfl
@[simp] theorem Upd.fn_nextId (f : Fn) (g : FnState → FnState) (s : State) : (Upd.apply (.fn f g) s).nextId = s.nextId := rfl
@[simp] theorem Upd.fn_log (f : Fn) (g : FnState → FnState) (s : State) : (Upd.apply (.fn f g) s).log = s.log := rfl
@[simp] theorem Upd.fn_logCount (f : Fn) (g : FnState → FnState) (s : State) : (Upd.apply (.fn f g) s).logCount = s.logCount := rfl
@[simp] theorem Upd.fn_tstat (f : Fn) (g : FnState → FnState) (s : State) : (Upd.apply (.fn f g) s).tstat = s.tstat := rfl
@[simp] theorem Upd.fn_ce (f : Fn) (g : FnState → FnState) (s : State) : (Upd.apply (.fn f g) s).ce = s.ce := rfl
@[simp] theorem Upd.fn_ports (f : Fn) (g : FnState → FnState) (s : State) : (Upd.apply (.fn f g) s).ports = s.ports := rfl
@[simp] theorem Upd.fn_power (f : Fn) (g : FnState → FnState) (s : State) : (Upd.apply (.fn f g) s).power = s.power := rfl
@[simp] theorem Upd.fn_sec (f : Fn) (g : FnState → FnState) (s : State) : (Upd.apply (.fn f g) s).sec = s.sec := rfl
@[simp] theorem Upd.fn_nvs (f : Fn) (g : FnState → FnState) (s : State) : (Upd.apply (.fn f g) s).nvs = s.nvs := rfl
@[simp] theorem Upd.fn_deferred (f : Fn) (g : FnState → FnState) (s : State) : (Upd.apply (.fn f g) s).deferred = s.deferred := rfl
@[simp] theorem Upd.fn_out (f : Fn) (g : FnState → FnState) (s : State) : (Upd.apply (.fn f g) s).out = s.out := rfl
@[simp] theorem Upd.fn_free (f : Fn) (g : FnState → FnState) (s : State) : (Upd.apply (.fn f g) s).free = s.free := rfl
@[simp] theorem Upd.core_pending (c : Nat) (g : Core → Core) (s : State) : (Upd.apply (.core c g) s).pending = s.pending := rfl
@[simp] theorem Upd.core_regs (c : Nat) (g : Core → Core) (s : State) : (Upd.apply (.core c g) s).regs = s.regs := rfl
@[simp] theorem Upd.core_staged (c : Nat) (g : Core → Core) (s : State) : (Upd.apply (.core c g) s).staged = s.staged := rfl
@[simp] theorem Upd.core_mem (c : Nat) (g : Core → Core) (s : State) : (Upd.apply (.core c g) s).mem = s.mem := rfl
@[simp] theorem Upd.core_fns (c : Nat) (g : Core → Core) (s : State) : (Upd.apply (.core c g) s).fns = s.fns := rfl
@[simp] theorem Upd.core_dies (c : Nat) (g : Core → Core) (s : State) : (Upd.apply (.core c g) s).dies = s.dies := rfl
@[simp] theorem Upd.core_parts (c : Nat) (g : Core → Core) (s : State) : (Upd.apply (.core c g) s).parts = s.parts := rfl
@[simp] theorem Upd.core_queues (c : Nat) (g : Core → Core) (s : State) : (Upd.apply (.core c g) s).queues = s.queues := rfl
@[simp] theorem Upd.core_tasks (c : Nat) (g : Core → Core) (s : State) : (Upd.apply (.core c g) s).tasks = s.tasks := rfl
@[simp] theorem Upd.core_reqs (c : Nat) (g : Core → Core) (s : State) : (Upd.apply (.core c g) s).reqs = s.reqs := rfl
@[simp] theorem Upd.core_stores (c : Nat) (g : Core → Core) (s : State) : (Upd.apply (.core c g) s).stores = s.stores := rfl
@[simp] theorem Upd.core_nextId (c : Nat) (g : Core → Core) (s : State) : (Upd.apply (.core c g) s).nextId = s.nextId := rfl
@[simp] theorem Upd.core_log (c : Nat) (g : Core → Core) (s : State) : (Upd.apply (.core c g) s).log = s.log := rfl
@[simp] theorem Upd.core_logCount (c : Nat) (g : Core → Core) (s : State) : (Upd.apply (.core c g) s).logCount = s.logCount := rfl
@[simp] theorem Upd.core_tstat (c : Nat) (g : Core → Core) (s : State) : (Upd.apply (.core c g) s).tstat = s.tstat := rfl
@[simp] theorem Upd.core_ce (c : Nat) (g : Core → Core) (s : State) : (Upd.apply (.core c g) s).ce = s.ce := rfl
@[simp] theorem Upd.core_ports (c : Nat) (g : Core → Core) (s : State) : (Upd.apply (.core c g) s).ports = s.ports := rfl
@[simp] theorem Upd.core_power (c : Nat) (g : Core → Core) (s : State) : (Upd.apply (.core c g) s).power = s.power := rfl
@[simp] theorem Upd.core_sec (c : Nat) (g : Core → Core) (s : State) : (Upd.apply (.core c g) s).sec = s.sec := rfl
@[simp] theorem Upd.core_nvs (c : Nat) (g : Core → Core) (s : State) : (Upd.apply (.core c g) s).nvs = s.nvs := rfl
@[simp] theorem Upd.core_deferred (c : Nat) (g : Core → Core) (s : State) : (Upd.apply (.core c g) s).deferred = s.deferred := rfl
@[simp] theorem Upd.core_out (c : Nat) (g : Core → Core) (s : State) : (Upd.apply (.core c g) s).out = s.out := rfl
@[simp] theorem Upd.core_free (c : Nat) (g : Core → Core) (s : State) : (Upd.apply (.core c g) s).free = s.free := rfl
@[simp] theorem Upd.die_pending (d : Nat) (g : DieState → DieState) (s : State) : (Upd.apply (.die d g) s).pending = s.pending := rfl
@[simp] theorem Upd.die_regs (d : Nat) (g : DieState → DieState) (s : State) : (Upd.apply (.die d g) s).regs = s.regs := rfl
@[simp] theorem Upd.die_staged (d : Nat) (g : DieState → DieState) (s : State) : (Upd.apply (.die d g) s).staged = s.staged := rfl
@[simp] theorem Upd.die_mem (d : Nat) (g : DieState → DieState) (s : State) : (Upd.apply (.die d g) s).mem = s.mem := rfl
@[simp] theorem Upd.die_fns (d : Nat) (g : DieState → DieState) (s : State) : (Upd.apply (.die d g) s).fns = s.fns := rfl
@[simp] theorem Upd.die_cores (d : Nat) (g : DieState → DieState) (s : State) : (Upd.apply (.die d g) s).cores = s.cores := rfl
@[simp] theorem Upd.die_parts (d : Nat) (g : DieState → DieState) (s : State) : (Upd.apply (.die d g) s).parts = s.parts := rfl
@[simp] theorem Upd.die_queues (d : Nat) (g : DieState → DieState) (s : State) : (Upd.apply (.die d g) s).queues = s.queues := rfl
@[simp] theorem Upd.die_tasks (d : Nat) (g : DieState → DieState) (s : State) : (Upd.apply (.die d g) s).tasks = s.tasks := rfl
@[simp] theorem Upd.die_reqs (d : Nat) (g : DieState → DieState) (s : State) : (Upd.apply (.die d g) s).reqs = s.reqs := rfl
@[simp] theorem Upd.die_stores (d : Nat) (g : DieState → DieState) (s : State) : (Upd.apply (.die d g) s).stores = s.stores := rfl
@[simp] theorem Upd.die_nextId (d : Nat) (g : DieState → DieState) (s : State) : (Upd.apply (.die d g) s).nextId = s.nextId := rfl
@[simp] theorem Upd.die_log (d : Nat) (g : DieState → DieState) (s : State) : (Upd.apply (.die d g) s).log = s.log := rfl
@[simp] theorem Upd.die_logCount (d : Nat) (g : DieState → DieState) (s : State) : (Upd.apply (.die d g) s).logCount = s.logCount := rfl
@[simp] theorem Upd.die_tstat (d : Nat) (g : DieState → DieState) (s : State) : (Upd.apply (.die d g) s).tstat = s.tstat := rfl
@[simp] theorem Upd.die_ce (d : Nat) (g : DieState → DieState) (s : State) : (Upd.apply (.die d g) s).ce = s.ce := rfl
@[simp] theorem Upd.die_ports (d : Nat) (g : DieState → DieState) (s : State) : (Upd.apply (.die d g) s).ports = s.ports := rfl
@[simp] theorem Upd.die_power (d : Nat) (g : DieState → DieState) (s : State) : (Upd.apply (.die d g) s).power = s.power := rfl
@[simp] theorem Upd.die_sec (d : Nat) (g : DieState → DieState) (s : State) : (Upd.apply (.die d g) s).sec = s.sec := rfl
@[simp] theorem Upd.die_nvs (d : Nat) (g : DieState → DieState) (s : State) : (Upd.apply (.die d g) s).nvs = s.nvs := rfl
@[simp] theorem Upd.die_deferred (d : Nat) (g : DieState → DieState) (s : State) : (Upd.apply (.die d g) s).deferred = s.deferred := rfl
@[simp] theorem Upd.die_out (d : Nat) (g : DieState → DieState) (s : State) : (Upd.apply (.die d g) s).out = s.out := rfl
@[simp] theorem Upd.die_free (d : Nat) (g : DieState → DieState) (s : State) : (Upd.apply (.die d g) s).free = s.free := rfl
@[simp] theorem Upd.part_pending (p : Nat) (g : Part → Part) (s : State) : (Upd.apply (.part p g) s).pending = s.pending := rfl
@[simp] theorem Upd.part_regs (p : Nat) (g : Part → Part) (s : State) : (Upd.apply (.part p g) s).regs = s.regs := rfl
@[simp] theorem Upd.part_staged (p : Nat) (g : Part → Part) (s : State) : (Upd.apply (.part p g) s).staged = s.staged := rfl
@[simp] theorem Upd.part_mem (p : Nat) (g : Part → Part) (s : State) : (Upd.apply (.part p g) s).mem = s.mem := rfl
@[simp] theorem Upd.part_fns (p : Nat) (g : Part → Part) (s : State) : (Upd.apply (.part p g) s).fns = s.fns := rfl
@[simp] theorem Upd.part_cores (p : Nat) (g : Part → Part) (s : State) : (Upd.apply (.part p g) s).cores = s.cores := rfl
@[simp] theorem Upd.part_dies (p : Nat) (g : Part → Part) (s : State) : (Upd.apply (.part p g) s).dies = s.dies := rfl
@[simp] theorem Upd.part_queues (p : Nat) (g : Part → Part) (s : State) : (Upd.apply (.part p g) s).queues = s.queues := rfl
@[simp] theorem Upd.part_tasks (p : Nat) (g : Part → Part) (s : State) : (Upd.apply (.part p g) s).tasks = s.tasks := rfl
@[simp] theorem Upd.part_reqs (p : Nat) (g : Part → Part) (s : State) : (Upd.apply (.part p g) s).reqs = s.reqs := rfl
@[simp] theorem Upd.part_stores (p : Nat) (g : Part → Part) (s : State) : (Upd.apply (.part p g) s).stores = s.stores := rfl
@[simp] theorem Upd.part_nextId (p : Nat) (g : Part → Part) (s : State) : (Upd.apply (.part p g) s).nextId = s.nextId := rfl
@[simp] theorem Upd.part_log (p : Nat) (g : Part → Part) (s : State) : (Upd.apply (.part p g) s).log = s.log := rfl
@[simp] theorem Upd.part_logCount (p : Nat) (g : Part → Part) (s : State) : (Upd.apply (.part p g) s).logCount = s.logCount := rfl
@[simp] theorem Upd.part_tstat (p : Nat) (g : Part → Part) (s : State) : (Upd.apply (.part p g) s).tstat = s.tstat := rfl
@[simp] theorem Upd.part_ce (p : Nat) (g : Part → Part) (s : State) : (Upd.apply (.part p g) s).ce = s.ce := rfl
@[simp] theorem Upd.part_ports (p : Nat) (g : Part → Part) (s : State) : (Upd.apply (.part p g) s).ports = s.ports := rfl
@[simp] theorem Upd.part_power (p : Nat) (g : Part → Part) (s : State) : (Upd.apply (.part p g) s).power = s.power := rfl
@[simp] theorem Upd.part_sec (p : Nat) (g : Part → Part) (s : State) : (Upd.apply (.part p g) s).sec = s.sec := rfl
@[simp] theorem Upd.part_nvs (p : Nat) (g : Part → Part) (s : State) : (Upd.apply (.part p g) s).nvs = s.nvs := rfl
@[simp] theorem Upd.part_deferred (p : Nat) (g : Part → Part) (s : State) : (Upd.apply (.part p g) s).deferred = s.deferred := rfl
@[simp] theorem Upd.part_out (p : Nat) (g : Part → Part) (s : State) : (Upd.apply (.part p g) s).out = s.out := rfl
@[simp] theorem Upd.part_free (p : Nat) (g : Part → Part) (s : State) : (Upd.apply (.part p g) s).free = s.free := rfl
@[simp] theorem Upd.queue_pending (p q : Nat) (g : Queue → Queue) (s : State) : (Upd.apply (.queue p q g) s).pending = s.pending := rfl
@[simp] theorem Upd.queue_regs (p q : Nat) (g : Queue → Queue) (s : State) : (Upd.apply (.queue p q g) s).regs = s.regs := rfl
@[simp] theorem Upd.queue_staged (p q : Nat) (g : Queue → Queue) (s : State) : (Upd.apply (.queue p q g) s).staged = s.staged := rfl
@[simp] theorem Upd.queue_mem (p q : Nat) (g : Queue → Queue) (s : State) : (Upd.apply (.queue p q g) s).mem = s.mem := rfl
@[simp] theorem Upd.queue_fns (p q : Nat) (g : Queue → Queue) (s : State) : (Upd.apply (.queue p q g) s).fns = s.fns := rfl
@[simp] theorem Upd.queue_cores (p q : Nat) (g : Queue → Queue) (s : State) : (Upd.apply (.queue p q g) s).cores = s.cores := rfl
@[simp] theorem Upd.queue_dies (p q : Nat) (g : Queue → Queue) (s : State) : (Upd.apply (.queue p q g) s).dies = s.dies := rfl
@[simp] theorem Upd.queue_parts (p q : Nat) (g : Queue → Queue) (s : State) : (Upd.apply (.queue p q g) s).parts = s.parts := rfl
@[simp] theorem Upd.queue_tasks (p q : Nat) (g : Queue → Queue) (s : State) : (Upd.apply (.queue p q g) s).tasks = s.tasks := rfl
@[simp] theorem Upd.queue_reqs (p q : Nat) (g : Queue → Queue) (s : State) : (Upd.apply (.queue p q g) s).reqs = s.reqs := rfl
@[simp] theorem Upd.queue_stores (p q : Nat) (g : Queue → Queue) (s : State) : (Upd.apply (.queue p q g) s).stores = s.stores := rfl
@[simp] theorem Upd.queue_nextId (p q : Nat) (g : Queue → Queue) (s : State) : (Upd.apply (.queue p q g) s).nextId = s.nextId := rfl
@[simp] theorem Upd.queue_log (p q : Nat) (g : Queue → Queue) (s : State) : (Upd.apply (.queue p q g) s).log = s.log := rfl
@[simp] theorem Upd.queue_logCount (p q : Nat) (g : Queue → Queue) (s : State) : (Upd.apply (.queue p q g) s).logCount = s.logCount := rfl
@[simp] theorem Upd.queue_tstat (p q : Nat) (g : Queue → Queue) (s : State) : (Upd.apply (.queue p q g) s).tstat = s.tstat := rfl
@[simp] theorem Upd.queue_ce (p q : Nat) (g : Queue → Queue) (s : State) : (Upd.apply (.queue p q g) s).ce = s.ce := rfl
@[simp] theorem Upd.queue_ports (p q : Nat) (g : Queue → Queue) (s : State) : (Upd.apply (.queue p q g) s).ports = s.ports := rfl
@[simp] theorem Upd.queue_power (p q : Nat) (g : Queue → Queue) (s : State) : (Upd.apply (.queue p q g) s).power = s.power := rfl
@[simp] theorem Upd.queue_sec (p q : Nat) (g : Queue → Queue) (s : State) : (Upd.apply (.queue p q g) s).sec = s.sec := rfl
@[simp] theorem Upd.queue_nvs (p q : Nat) (g : Queue → Queue) (s : State) : (Upd.apply (.queue p q g) s).nvs = s.nvs := rfl
@[simp] theorem Upd.queue_deferred (p q : Nat) (g : Queue → Queue) (s : State) : (Upd.apply (.queue p q g) s).deferred = s.deferred := rfl
@[simp] theorem Upd.queue_out (p q : Nat) (g : Queue → Queue) (s : State) : (Upd.apply (.queue p q g) s).out = s.out := rfl
@[simp] theorem Upd.queue_free (p q : Nat) (g : Queue → Queue) (s : State) : (Upd.apply (.queue p q g) s).free = s.free := rfl
@[simp] theorem Upd.tasks_pending (g : List Task → List Task) (s : State) : (Upd.apply (.tasks g) s).pending = s.pending := rfl
@[simp] theorem Upd.tasks_regs (g : List Task → List Task) (s : State) : (Upd.apply (.tasks g) s).regs = s.regs := rfl
@[simp] theorem Upd.tasks_staged (g : List Task → List Task) (s : State) : (Upd.apply (.tasks g) s).staged = s.staged := rfl
@[simp] theorem Upd.tasks_mem (g : List Task → List Task) (s : State) : (Upd.apply (.tasks g) s).mem = s.mem := rfl
@[simp] theorem Upd.tasks_fns (g : List Task → List Task) (s : State) : (Upd.apply (.tasks g) s).fns = s.fns := rfl
@[simp] theorem Upd.tasks_cores (g : List Task → List Task) (s : State) : (Upd.apply (.tasks g) s).cores = s.cores := rfl
@[simp] theorem Upd.tasks_dies (g : List Task → List Task) (s : State) : (Upd.apply (.tasks g) s).dies = s.dies := rfl
@[simp] theorem Upd.tasks_parts (g : List Task → List Task) (s : State) : (Upd.apply (.tasks g) s).parts = s.parts := rfl
@[simp] theorem Upd.tasks_queues (g : List Task → List Task) (s : State) : (Upd.apply (.tasks g) s).queues = s.queues := rfl
@[simp] theorem Upd.tasks_reqs (g : List Task → List Task) (s : State) : (Upd.apply (.tasks g) s).reqs = s.reqs := rfl
@[simp] theorem Upd.tasks_stores (g : List Task → List Task) (s : State) : (Upd.apply (.tasks g) s).stores = s.stores := rfl
@[simp] theorem Upd.tasks_nextId (g : List Task → List Task) (s : State) : (Upd.apply (.tasks g) s).nextId = s.nextId := rfl
@[simp] theorem Upd.tasks_log (g : List Task → List Task) (s : State) : (Upd.apply (.tasks g) s).log = s.log := rfl
@[simp] theorem Upd.tasks_logCount (g : List Task → List Task) (s : State) : (Upd.apply (.tasks g) s).logCount = s.logCount := rfl
@[simp] theorem Upd.tasks_tstat (g : List Task → List Task) (s : State) : (Upd.apply (.tasks g) s).tstat = s.tstat := rfl
@[simp] theorem Upd.tasks_ce (g : List Task → List Task) (s : State) : (Upd.apply (.tasks g) s).ce = s.ce := rfl
@[simp] theorem Upd.tasks_ports (g : List Task → List Task) (s : State) : (Upd.apply (.tasks g) s).ports = s.ports := rfl
@[simp] theorem Upd.tasks_power (g : List Task → List Task) (s : State) : (Upd.apply (.tasks g) s).power = s.power := rfl
@[simp] theorem Upd.tasks_sec (g : List Task → List Task) (s : State) : (Upd.apply (.tasks g) s).sec = s.sec := rfl
@[simp] theorem Upd.tasks_nvs (g : List Task → List Task) (s : State) : (Upd.apply (.tasks g) s).nvs = s.nvs := rfl
@[simp] theorem Upd.tasks_deferred (g : List Task → List Task) (s : State) : (Upd.apply (.tasks g) s).deferred = s.deferred := rfl
@[simp] theorem Upd.tasks_out (g : List Task → List Task) (s : State) : (Upd.apply (.tasks g) s).out = s.out := rfl
@[simp] theorem Upd.tasks_free (g : List Task → List Task) (s : State) : (Upd.apply (.tasks g) s).free = s.free := rfl
@[simp] theorem Upd.reqs_pending (g : List Request → List Request) (s : State) : (Upd.apply (.reqs g) s).pending = s.pending := rfl
@[simp] theorem Upd.reqs_regs (g : List Request → List Request) (s : State) : (Upd.apply (.reqs g) s).regs = s.regs := rfl
@[simp] theorem Upd.reqs_staged (g : List Request → List Request) (s : State) : (Upd.apply (.reqs g) s).staged = s.staged := rfl
@[simp] theorem Upd.reqs_mem (g : List Request → List Request) (s : State) : (Upd.apply (.reqs g) s).mem = s.mem := rfl
@[simp] theorem Upd.reqs_fns (g : List Request → List Request) (s : State) : (Upd.apply (.reqs g) s).fns = s.fns := rfl
@[simp] theorem Upd.reqs_cores (g : List Request → List Request) (s : State) : (Upd.apply (.reqs g) s).cores = s.cores := rfl
@[simp] theorem Upd.reqs_dies (g : List Request → List Request) (s : State) : (Upd.apply (.reqs g) s).dies = s.dies := rfl
@[simp] theorem Upd.reqs_parts (g : List Request → List Request) (s : State) : (Upd.apply (.reqs g) s).parts = s.parts := rfl
@[simp] theorem Upd.reqs_queues (g : List Request → List Request) (s : State) : (Upd.apply (.reqs g) s).queues = s.queues := rfl
@[simp] theorem Upd.reqs_tasks (g : List Request → List Request) (s : State) : (Upd.apply (.reqs g) s).tasks = s.tasks := rfl
@[simp] theorem Upd.reqs_stores (g : List Request → List Request) (s : State) : (Upd.apply (.reqs g) s).stores = s.stores := rfl
@[simp] theorem Upd.reqs_nextId (g : List Request → List Request) (s : State) : (Upd.apply (.reqs g) s).nextId = s.nextId := rfl
@[simp] theorem Upd.reqs_log (g : List Request → List Request) (s : State) : (Upd.apply (.reqs g) s).log = s.log := rfl
@[simp] theorem Upd.reqs_logCount (g : List Request → List Request) (s : State) : (Upd.apply (.reqs g) s).logCount = s.logCount := rfl
@[simp] theorem Upd.reqs_tstat (g : List Request → List Request) (s : State) : (Upd.apply (.reqs g) s).tstat = s.tstat := rfl
@[simp] theorem Upd.reqs_ce (g : List Request → List Request) (s : State) : (Upd.apply (.reqs g) s).ce = s.ce := rfl
@[simp] theorem Upd.reqs_ports (g : List Request → List Request) (s : State) : (Upd.apply (.reqs g) s).ports = s.ports := rfl
@[simp] theorem Upd.reqs_power (g : List Request → List Request) (s : State) : (Upd.apply (.reqs g) s).power = s.power := rfl
@[simp] theorem Upd.reqs_sec (g : List Request → List Request) (s : State) : (Upd.apply (.reqs g) s).sec = s.sec := rfl
@[simp] theorem Upd.reqs_nvs (g : List Request → List Request) (s : State) : (Upd.apply (.reqs g) s).nvs = s.nvs := rfl
@[simp] theorem Upd.reqs_deferred (g : List Request → List Request) (s : State) : (Upd.apply (.reqs g) s).deferred = s.deferred := rfl
@[simp] theorem Upd.reqs_out (g : List Request → List Request) (s : State) : (Upd.apply (.reqs g) s).out = s.out := rfl
@[simp] theorem Upd.reqs_free (g : List Request → List Request) (s : State) : (Upd.apply (.reqs g) s).free = s.free := rfl
@[simp] theorem Upd.stores_pending (g : List Store → List Store) (s : State) : (Upd.apply (.stores g) s).pending = s.pending := rfl
@[simp] theorem Upd.stores_regs (g : List Store → List Store) (s : State) : (Upd.apply (.stores g) s).regs = s.regs := rfl
@[simp] theorem Upd.stores_staged (g : List Store → List Store) (s : State) : (Upd.apply (.stores g) s).staged = s.staged := rfl
@[simp] theorem Upd.stores_mem (g : List Store → List Store) (s : State) : (Upd.apply (.stores g) s).mem = s.mem := rfl
@[simp] theorem Upd.stores_fns (g : List Store → List Store) (s : State) : (Upd.apply (.stores g) s).fns = s.fns := rfl
@[simp] theorem Upd.stores_cores (g : List Store → List Store) (s : State) : (Upd.apply (.stores g) s).cores = s.cores := rfl
@[simp] theorem Upd.stores_dies (g : List Store → List Store) (s : State) : (Upd.apply (.stores g) s).dies = s.dies := rfl
@[simp] theorem Upd.stores_parts (g : List Store → List Store) (s : State) : (Upd.apply (.stores g) s).parts = s.parts := rfl
@[simp] theorem Upd.stores_queues (g : List Store → List Store) (s : State) : (Upd.apply (.stores g) s).queues = s.queues := rfl
@[simp] theorem Upd.stores_tasks (g : List Store → List Store) (s : State) : (Upd.apply (.stores g) s).tasks = s.tasks := rfl
@[simp] theorem Upd.stores_reqs (g : List Store → List Store) (s : State) : (Upd.apply (.stores g) s).reqs = s.reqs := rfl
@[simp] theorem Upd.stores_nextId (g : List Store → List Store) (s : State) : (Upd.apply (.stores g) s).nextId = s.nextId := rfl
@[simp] theorem Upd.stores_log (g : List Store → List Store) (s : State) : (Upd.apply (.stores g) s).log = s.log := rfl
@[simp] theorem Upd.stores_logCount (g : List Store → List Store) (s : State) : (Upd.apply (.stores g) s).logCount = s.logCount := rfl
@[simp] theorem Upd.stores_tstat (g : List Store → List Store) (s : State) : (Upd.apply (.stores g) s).tstat = s.tstat := rfl
@[simp] theorem Upd.stores_ce (g : List Store → List Store) (s : State) : (Upd.apply (.stores g) s).ce = s.ce := rfl
@[simp] theorem Upd.stores_ports (g : List Store → List Store) (s : State) : (Upd.apply (.stores g) s).ports = s.ports := rfl
@[simp] theorem Upd.stores_power (g : List Store → List Store) (s : State) : (Upd.apply (.stores g) s).power = s.power := rfl
@[simp] theorem Upd.stores_sec (g : List Store → List Store) (s : State) : (Upd.apply (.stores g) s).sec = s.sec := rfl
@[simp] theorem Upd.stores_nvs (g : List Store → List Store) (s : State) : (Upd.apply (.stores g) s).nvs = s.nvs := rfl
@[simp] theorem Upd.stores_deferred (g : List Store → List Store) (s : State) : (Upd.apply (.stores g) s).deferred = s.deferred := rfl
@[simp] theorem Upd.stores_out (g : List Store → List Store) (s : State) : (Upd.apply (.stores g) s).out = s.out := rfl
@[simp] theorem Upd.stores_free (g : List Store → List Store) (s : State) : (Upd.apply (.stores g) s).free = s.free := rfl
@[simp] theorem Upd.log_pending (g : List FaultRec → List FaultRec) (s : State) : (Upd.apply (.log g) s).pending = s.pending := rfl
@[simp] theorem Upd.log_regs (g : List FaultRec → List FaultRec) (s : State) : (Upd.apply (.log g) s).regs = s.regs := rfl
@[simp] theorem Upd.log_staged (g : List FaultRec → List FaultRec) (s : State) : (Upd.apply (.log g) s).staged = s.staged := rfl
@[simp] theorem Upd.log_mem (g : List FaultRec → List FaultRec) (s : State) : (Upd.apply (.log g) s).mem = s.mem := rfl
@[simp] theorem Upd.log_fns (g : List FaultRec → List FaultRec) (s : State) : (Upd.apply (.log g) s).fns = s.fns := rfl
@[simp] theorem Upd.log_cores (g : List FaultRec → List FaultRec) (s : State) : (Upd.apply (.log g) s).cores = s.cores := rfl
@[simp] theorem Upd.log_dies (g : List FaultRec → List FaultRec) (s : State) : (Upd.apply (.log g) s).dies = s.dies := rfl
@[simp] theorem Upd.log_parts (g : List FaultRec → List FaultRec) (s : State) : (Upd.apply (.log g) s).parts = s.parts := rfl
@[simp] theorem Upd.log_queues (g : List FaultRec → List FaultRec) (s : State) : (Upd.apply (.log g) s).queues = s.queues := rfl
@[simp] theorem Upd.log_tasks (g : List FaultRec → List FaultRec) (s : State) : (Upd.apply (.log g) s).tasks = s.tasks := rfl
@[simp] theorem Upd.log_reqs (g : List FaultRec → List FaultRec) (s : State) : (Upd.apply (.log g) s).reqs = s.reqs := rfl
@[simp] theorem Upd.log_stores (g : List FaultRec → List FaultRec) (s : State) : (Upd.apply (.log g) s).stores = s.stores := rfl
@[simp] theorem Upd.log_nextId (g : List FaultRec → List FaultRec) (s : State) : (Upd.apply (.log g) s).nextId = s.nextId := rfl
@[simp] theorem Upd.log_logCount (g : List FaultRec → List FaultRec) (s : State) : (Upd.apply (.log g) s).logCount = s.logCount := rfl
@[simp] theorem Upd.log_tstat (g : List FaultRec → List FaultRec) (s : State) : (Upd.apply (.log g) s).tstat = s.tstat := rfl
@[simp] theorem Upd.log_ce (g : List FaultRec → List FaultRec) (s : State) : (Upd.apply (.log g) s).ce = s.ce := rfl
@[simp] theorem Upd.log_ports (g : List FaultRec → List FaultRec) (s : State) : (Upd.apply (.log g) s).ports = s.ports := rfl
@[simp] theorem Upd.log_power (g : List FaultRec → List FaultRec) (s : State) : (Upd.apply (.log g) s).power = s.power := rfl
@[simp] theorem Upd.log_sec (g : List FaultRec → List FaultRec) (s : State) : (Upd.apply (.log g) s).sec = s.sec := rfl
@[simp] theorem Upd.log_nvs (g : List FaultRec → List FaultRec) (s : State) : (Upd.apply (.log g) s).nvs = s.nvs := rfl
@[simp] theorem Upd.log_deferred (g : List FaultRec → List FaultRec) (s : State) : (Upd.apply (.log g) s).deferred = s.deferred := rfl
@[simp] theorem Upd.log_out (g : List FaultRec → List FaultRec) (s : State) : (Upd.apply (.log g) s).out = s.out := rfl
@[simp] theorem Upd.log_free (g : List FaultRec → List FaultRec) (s : State) : (Upd.apply (.log g) s).free = s.free := rfl
@[simp] theorem Upd.logged_pending (s : State) : (Upd.apply .logged s).pending = s.pending := rfl
@[simp] theorem Upd.logged_regs (s : State) : (Upd.apply .logged s).regs = s.regs := rfl
@[simp] theorem Upd.logged_staged (s : State) : (Upd.apply .logged s).staged = s.staged := rfl
@[simp] theorem Upd.logged_mem (s : State) : (Upd.apply .logged s).mem = s.mem := rfl
@[simp] theorem Upd.logged_fns (s : State) : (Upd.apply .logged s).fns = s.fns := rfl
@[simp] theorem Upd.logged_cores (s : State) : (Upd.apply .logged s).cores = s.cores := rfl
@[simp] theorem Upd.logged_dies (s : State) : (Upd.apply .logged s).dies = s.dies := rfl
@[simp] theorem Upd.logged_parts (s : State) : (Upd.apply .logged s).parts = s.parts := rfl
@[simp] theorem Upd.logged_queues (s : State) : (Upd.apply .logged s).queues = s.queues := rfl
@[simp] theorem Upd.logged_tasks (s : State) : (Upd.apply .logged s).tasks = s.tasks := rfl
@[simp] theorem Upd.logged_reqs (s : State) : (Upd.apply .logged s).reqs = s.reqs := rfl
@[simp] theorem Upd.logged_stores (s : State) : (Upd.apply .logged s).stores = s.stores := rfl
@[simp] theorem Upd.logged_nextId (s : State) : (Upd.apply .logged s).nextId = s.nextId := rfl
@[simp] theorem Upd.logged_log (s : State) : (Upd.apply .logged s).log = s.log := rfl
@[simp] theorem Upd.logged_tstat (s : State) : (Upd.apply .logged s).tstat = s.tstat := rfl
@[simp] theorem Upd.logged_ce (s : State) : (Upd.apply .logged s).ce = s.ce := rfl
@[simp] theorem Upd.logged_ports (s : State) : (Upd.apply .logged s).ports = s.ports := rfl
@[simp] theorem Upd.logged_power (s : State) : (Upd.apply .logged s).power = s.power := rfl
@[simp] theorem Upd.logged_sec (s : State) : (Upd.apply .logged s).sec = s.sec := rfl
@[simp] theorem Upd.logged_nvs (s : State) : (Upd.apply .logged s).nvs = s.nvs := rfl
@[simp] theorem Upd.logged_deferred (s : State) : (Upd.apply .logged s).deferred = s.deferred := rfl
@[simp] theorem Upd.logged_out (s : State) : (Upd.apply .logged s).out = s.out := rfl
@[simp] theorem Upd.logged_free (s : State) : (Upd.apply .logged s).free = s.free := rfl
@[simp] theorem Upd.tstat_pending (g : Tbl Nat (List Byte) → Tbl Nat (List Byte)) (s : State) : (Upd.apply (.tstat g) s).pending = s.pending := rfl
@[simp] theorem Upd.tstat_regs (g : Tbl Nat (List Byte) → Tbl Nat (List Byte)) (s : State) : (Upd.apply (.tstat g) s).regs = s.regs := rfl
@[simp] theorem Upd.tstat_staged (g : Tbl Nat (List Byte) → Tbl Nat (List Byte)) (s : State) : (Upd.apply (.tstat g) s).staged = s.staged := rfl
@[simp] theorem Upd.tstat_mem (g : Tbl Nat (List Byte) → Tbl Nat (List Byte)) (s : State) : (Upd.apply (.tstat g) s).mem = s.mem := rfl
@[simp] theorem Upd.tstat_fns (g : Tbl Nat (List Byte) → Tbl Nat (List Byte)) (s : State) : (Upd.apply (.tstat g) s).fns = s.fns := rfl
@[simp] theorem Upd.tstat_cores (g : Tbl Nat (List Byte) → Tbl Nat (List Byte)) (s : State) : (Upd.apply (.tstat g) s).cores = s.cores := rfl
@[simp] theorem Upd.tstat_dies (g : Tbl Nat (List Byte) → Tbl Nat (List Byte)) (s : State) : (Upd.apply (.tstat g) s).dies = s.dies := rfl
@[simp] theorem Upd.tstat_parts (g : Tbl Nat (List Byte) → Tbl Nat (List Byte)) (s : State) : (Upd.apply (.tstat g) s).parts = s.parts := rfl
@[simp] theorem Upd.tstat_queues (g : Tbl Nat (List Byte) → Tbl Nat (List Byte)) (s : State) : (Upd.apply (.tstat g) s).queues = s.queues := rfl
@[simp] theorem Upd.tstat_tasks (g : Tbl Nat (List Byte) → Tbl Nat (List Byte)) (s : State) : (Upd.apply (.tstat g) s).tasks = s.tasks := rfl
@[simp] theorem Upd.tstat_reqs (g : Tbl Nat (List Byte) → Tbl Nat (List Byte)) (s : State) : (Upd.apply (.tstat g) s).reqs = s.reqs := rfl
@[simp] theorem Upd.tstat_stores (g : Tbl Nat (List Byte) → Tbl Nat (List Byte)) (s : State) : (Upd.apply (.tstat g) s).stores = s.stores := rfl
@[simp] theorem Upd.tstat_nextId (g : Tbl Nat (List Byte) → Tbl Nat (List Byte)) (s : State) : (Upd.apply (.tstat g) s).nextId = s.nextId := rfl
@[simp] theorem Upd.tstat_log (g : Tbl Nat (List Byte) → Tbl Nat (List Byte)) (s : State) : (Upd.apply (.tstat g) s).log = s.log := rfl
@[simp] theorem Upd.tstat_logCount (g : Tbl Nat (List Byte) → Tbl Nat (List Byte)) (s : State) : (Upd.apply (.tstat g) s).logCount = s.logCount := rfl
@[simp] theorem Upd.tstat_ce (g : Tbl Nat (List Byte) → Tbl Nat (List Byte)) (s : State) : (Upd.apply (.tstat g) s).ce = s.ce := rfl
@[simp] theorem Upd.tstat_ports (g : Tbl Nat (List Byte) → Tbl Nat (List Byte)) (s : State) : (Upd.apply (.tstat g) s).ports = s.ports := rfl
@[simp] theorem Upd.tstat_power (g : Tbl Nat (List Byte) → Tbl Nat (List Byte)) (s : State) : (Upd.apply (.tstat g) s).power = s.power := rfl
@[simp] theorem Upd.tstat_sec (g : Tbl Nat (List Byte) → Tbl Nat (List Byte)) (s : State) : (Upd.apply (.tstat g) s).sec = s.sec := rfl
@[simp] theorem Upd.tstat_nvs (g : Tbl Nat (List Byte) → Tbl Nat (List Byte)) (s : State) : (Upd.apply (.tstat g) s).nvs = s.nvs := rfl
@[simp] theorem Upd.tstat_deferred (g : Tbl Nat (List Byte) → Tbl Nat (List Byte)) (s : State) : (Upd.apply (.tstat g) s).deferred = s.deferred := rfl
@[simp] theorem Upd.tstat_out (g : Tbl Nat (List Byte) → Tbl Nat (List Byte)) (s : State) : (Upd.apply (.tstat g) s).out = s.out := rfl
@[simp] theorem Upd.tstat_free (g : Tbl Nat (List Byte) → Tbl Nat (List Byte)) (s : State) : (Upd.apply (.tstat g) s).free = s.free := rfl
@[simp] theorem Upd.ce_pending (g : Tbl Nat CeWindow → Tbl Nat CeWindow) (s : State) : (Upd.apply (.ce g) s).pending = s.pending := rfl
@[simp] theorem Upd.ce_regs (g : Tbl Nat CeWindow → Tbl Nat CeWindow) (s : State) : (Upd.apply (.ce g) s).regs = s.regs := rfl
@[simp] theorem Upd.ce_staged (g : Tbl Nat CeWindow → Tbl Nat CeWindow) (s : State) : (Upd.apply (.ce g) s).staged = s.staged := rfl
@[simp] theorem Upd.ce_mem (g : Tbl Nat CeWindow → Tbl Nat CeWindow) (s : State) : (Upd.apply (.ce g) s).mem = s.mem := rfl
@[simp] theorem Upd.ce_fns (g : Tbl Nat CeWindow → Tbl Nat CeWindow) (s : State) : (Upd.apply (.ce g) s).fns = s.fns := rfl
@[simp] theorem Upd.ce_cores (g : Tbl Nat CeWindow → Tbl Nat CeWindow) (s : State) : (Upd.apply (.ce g) s).cores = s.cores := rfl
@[simp] theorem Upd.ce_dies (g : Tbl Nat CeWindow → Tbl Nat CeWindow) (s : State) : (Upd.apply (.ce g) s).dies = s.dies := rfl
@[simp] theorem Upd.ce_parts (g : Tbl Nat CeWindow → Tbl Nat CeWindow) (s : State) : (Upd.apply (.ce g) s).parts = s.parts := rfl
@[simp] theorem Upd.ce_queues (g : Tbl Nat CeWindow → Tbl Nat CeWindow) (s : State) : (Upd.apply (.ce g) s).queues = s.queues := rfl
@[simp] theorem Upd.ce_tasks (g : Tbl Nat CeWindow → Tbl Nat CeWindow) (s : State) : (Upd.apply (.ce g) s).tasks = s.tasks := rfl
@[simp] theorem Upd.ce_reqs (g : Tbl Nat CeWindow → Tbl Nat CeWindow) (s : State) : (Upd.apply (.ce g) s).reqs = s.reqs := rfl
@[simp] theorem Upd.ce_stores (g : Tbl Nat CeWindow → Tbl Nat CeWindow) (s : State) : (Upd.apply (.ce g) s).stores = s.stores := rfl
@[simp] theorem Upd.ce_nextId (g : Tbl Nat CeWindow → Tbl Nat CeWindow) (s : State) : (Upd.apply (.ce g) s).nextId = s.nextId := rfl
@[simp] theorem Upd.ce_log (g : Tbl Nat CeWindow → Tbl Nat CeWindow) (s : State) : (Upd.apply (.ce g) s).log = s.log := rfl
@[simp] theorem Upd.ce_logCount (g : Tbl Nat CeWindow → Tbl Nat CeWindow) (s : State) : (Upd.apply (.ce g) s).logCount = s.logCount := rfl
@[simp] theorem Upd.ce_tstat (g : Tbl Nat CeWindow → Tbl Nat CeWindow) (s : State) : (Upd.apply (.ce g) s).tstat = s.tstat := rfl
@[simp] theorem Upd.ce_ports (g : Tbl Nat CeWindow → Tbl Nat CeWindow) (s : State) : (Upd.apply (.ce g) s).ports = s.ports := rfl
@[simp] theorem Upd.ce_power (g : Tbl Nat CeWindow → Tbl Nat CeWindow) (s : State) : (Upd.apply (.ce g) s).power = s.power := rfl
@[simp] theorem Upd.ce_sec (g : Tbl Nat CeWindow → Tbl Nat CeWindow) (s : State) : (Upd.apply (.ce g) s).sec = s.sec := rfl
@[simp] theorem Upd.ce_nvs (g : Tbl Nat CeWindow → Tbl Nat CeWindow) (s : State) : (Upd.apply (.ce g) s).nvs = s.nvs := rfl
@[simp] theorem Upd.ce_deferred (g : Tbl Nat CeWindow → Tbl Nat CeWindow) (s : State) : (Upd.apply (.ce g) s).deferred = s.deferred := rfl
@[simp] theorem Upd.ce_out (g : Tbl Nat CeWindow → Tbl Nat CeWindow) (s : State) : (Upd.apply (.ce g) s).out = s.out := rfl
@[simp] theorem Upd.ce_free (g : Tbl Nat CeWindow → Tbl Nat CeWindow) (s : State) : (Upd.apply (.ce g) s).free = s.free := rfl
@[simp] theorem Upd.port_pending (g : Nat) (h : Port → Port) (s : State) : (Upd.apply (.port g h) s).pending = s.pending := rfl
@[simp] theorem Upd.port_regs (g : Nat) (h : Port → Port) (s : State) : (Upd.apply (.port g h) s).regs = s.regs := rfl
@[simp] theorem Upd.port_staged (g : Nat) (h : Port → Port) (s : State) : (Upd.apply (.port g h) s).staged = s.staged := rfl
@[simp] theorem Upd.port_mem (g : Nat) (h : Port → Port) (s : State) : (Upd.apply (.port g h) s).mem = s.mem := rfl
@[simp] theorem Upd.port_fns (g : Nat) (h : Port → Port) (s : State) : (Upd.apply (.port g h) s).fns = s.fns := rfl
@[simp] theorem Upd.port_cores (g : Nat) (h : Port → Port) (s : State) : (Upd.apply (.port g h) s).cores = s.cores := rfl
@[simp] theorem Upd.port_dies (g : Nat) (h : Port → Port) (s : State) : (Upd.apply (.port g h) s).dies = s.dies := rfl
@[simp] theorem Upd.port_parts (g : Nat) (h : Port → Port) (s : State) : (Upd.apply (.port g h) s).parts = s.parts := rfl
@[simp] theorem Upd.port_queues (g : Nat) (h : Port → Port) (s : State) : (Upd.apply (.port g h) s).queues = s.queues := rfl
@[simp] theorem Upd.port_tasks (g : Nat) (h : Port → Port) (s : State) : (Upd.apply (.port g h) s).tasks = s.tasks := rfl
@[simp] theorem Upd.port_reqs (g : Nat) (h : Port → Port) (s : State) : (Upd.apply (.port g h) s).reqs = s.reqs := rfl
@[simp] theorem Upd.port_stores (g : Nat) (h : Port → Port) (s : State) : (Upd.apply (.port g h) s).stores = s.stores := rfl
@[simp] theorem Upd.port_nextId (g : Nat) (h : Port → Port) (s : State) : (Upd.apply (.port g h) s).nextId = s.nextId := rfl
@[simp] theorem Upd.port_log (g : Nat) (h : Port → Port) (s : State) : (Upd.apply (.port g h) s).log = s.log := rfl
@[simp] theorem Upd.port_logCount (g : Nat) (h : Port → Port) (s : State) : (Upd.apply (.port g h) s).logCount = s.logCount := rfl
@[simp] theorem Upd.port_tstat (g : Nat) (h : Port → Port) (s : State) : (Upd.apply (.port g h) s).tstat = s.tstat := rfl
@[simp] theorem Upd.port_ce (g : Nat) (h : Port → Port) (s : State) : (Upd.apply (.port g h) s).ce = s.ce := rfl
@[simp] theorem Upd.port_power (g : Nat) (h : Port → Port) (s : State) : (Upd.apply (.port g h) s).power = s.power := rfl
@[simp] theorem Upd.port_sec (g : Nat) (h : Port → Port) (s : State) : (Upd.apply (.port g h) s).sec = s.sec := rfl
@[simp] theorem Upd.port_nvs (g : Nat) (h : Port → Port) (s : State) : (Upd.apply (.port g h) s).nvs = s.nvs := rfl
@[simp] theorem Upd.port_deferred (g : Nat) (h : Port → Port) (s : State) : (Upd.apply (.port g h) s).deferred = s.deferred := rfl
@[simp] theorem Upd.port_out (g : Nat) (h : Port → Port) (s : State) : (Upd.apply (.port g h) s).out = s.out := rfl
@[simp] theorem Upd.port_free (g : Nat) (h : Port → Port) (s : State) : (Upd.apply (.port g h) s).free = s.free := rfl
@[simp] theorem Upd.power_pending (g : PowerCtl → PowerCtl) (s : State) : (Upd.apply (.power g) s).pending = s.pending := rfl
@[simp] theorem Upd.power_regs (g : PowerCtl → PowerCtl) (s : State) : (Upd.apply (.power g) s).regs = s.regs := rfl
@[simp] theorem Upd.power_staged (g : PowerCtl → PowerCtl) (s : State) : (Upd.apply (.power g) s).staged = s.staged := rfl
@[simp] theorem Upd.power_mem (g : PowerCtl → PowerCtl) (s : State) : (Upd.apply (.power g) s).mem = s.mem := rfl
@[simp] theorem Upd.power_fns (g : PowerCtl → PowerCtl) (s : State) : (Upd.apply (.power g) s).fns = s.fns := rfl
@[simp] theorem Upd.power_cores (g : PowerCtl → PowerCtl) (s : State) : (Upd.apply (.power g) s).cores = s.cores := rfl
@[simp] theorem Upd.power_dies (g : PowerCtl → PowerCtl) (s : State) : (Upd.apply (.power g) s).dies = s.dies := rfl
@[simp] theorem Upd.power_parts (g : PowerCtl → PowerCtl) (s : State) : (Upd.apply (.power g) s).parts = s.parts := rfl
@[simp] theorem Upd.power_queues (g : PowerCtl → PowerCtl) (s : State) : (Upd.apply (.power g) s).queues = s.queues := rfl
@[simp] theorem Upd.power_tasks (g : PowerCtl → PowerCtl) (s : State) : (Upd.apply (.power g) s).tasks = s.tasks := rfl
@[simp] theorem Upd.power_reqs (g : PowerCtl → PowerCtl) (s : State) : (Upd.apply (.power g) s).reqs = s.reqs := rfl
@[simp] theorem Upd.power_stores (g : PowerCtl → PowerCtl) (s : State) : (Upd.apply (.power g) s).stores = s.stores := rfl
@[simp] theorem Upd.power_nextId (g : PowerCtl → PowerCtl) (s : State) : (Upd.apply (.power g) s).nextId = s.nextId := rfl
@[simp] theorem Upd.power_log (g : PowerCtl → PowerCtl) (s : State) : (Upd.apply (.power g) s).log = s.log := rfl
@[simp] theorem Upd.power_logCount (g : PowerCtl → PowerCtl) (s : State) : (Upd.apply (.power g) s).logCount = s.logCount := rfl
@[simp] theorem Upd.power_tstat (g : PowerCtl → PowerCtl) (s : State) : (Upd.apply (.power g) s).tstat = s.tstat := rfl
@[simp] theorem Upd.power_ce (g : PowerCtl → PowerCtl) (s : State) : (Upd.apply (.power g) s).ce = s.ce := rfl
@[simp] theorem Upd.power_ports (g : PowerCtl → PowerCtl) (s : State) : (Upd.apply (.power g) s).ports = s.ports := rfl
@[simp] theorem Upd.power_sec (g : PowerCtl → PowerCtl) (s : State) : (Upd.apply (.power g) s).sec = s.sec := rfl
@[simp] theorem Upd.power_nvs (g : PowerCtl → PowerCtl) (s : State) : (Upd.apply (.power g) s).nvs = s.nvs := rfl
@[simp] theorem Upd.power_deferred (g : PowerCtl → PowerCtl) (s : State) : (Upd.apply (.power g) s).deferred = s.deferred := rfl
@[simp] theorem Upd.power_out (g : PowerCtl → PowerCtl) (s : State) : (Upd.apply (.power g) s).out = s.out := rfl
@[simp] theorem Upd.power_free (g : PowerCtl → PowerCtl) (s : State) : (Upd.apply (.power g) s).free = s.free := rfl
@[simp] theorem Upd.sec_pending (g : Sec → Sec) (s : State) : (Upd.apply (.sec g) s).pending = s.pending := rfl
@[simp] theorem Upd.sec_regs (g : Sec → Sec) (s : State) : (Upd.apply (.sec g) s).regs = s.regs := rfl
@[simp] theorem Upd.sec_staged (g : Sec → Sec) (s : State) : (Upd.apply (.sec g) s).staged = s.staged := rfl
@[simp] theorem Upd.sec_mem (g : Sec → Sec) (s : State) : (Upd.apply (.sec g) s).mem = s.mem := rfl
@[simp] theorem Upd.sec_fns (g : Sec → Sec) (s : State) : (Upd.apply (.sec g) s).fns = s.fns := rfl
@[simp] theorem Upd.sec_cores (g : Sec → Sec) (s : State) : (Upd.apply (.sec g) s).cores = s.cores := rfl
@[simp] theorem Upd.sec_dies (g : Sec → Sec) (s : State) : (Upd.apply (.sec g) s).dies = s.dies := rfl
@[simp] theorem Upd.sec_parts (g : Sec → Sec) (s : State) : (Upd.apply (.sec g) s).parts = s.parts := rfl
@[simp] theorem Upd.sec_queues (g : Sec → Sec) (s : State) : (Upd.apply (.sec g) s).queues = s.queues := rfl
@[simp] theorem Upd.sec_tasks (g : Sec → Sec) (s : State) : (Upd.apply (.sec g) s).tasks = s.tasks := rfl
@[simp] theorem Upd.sec_reqs (g : Sec → Sec) (s : State) : (Upd.apply (.sec g) s).reqs = s.reqs := rfl
@[simp] theorem Upd.sec_stores (g : Sec → Sec) (s : State) : (Upd.apply (.sec g) s).stores = s.stores := rfl
@[simp] theorem Upd.sec_nextId (g : Sec → Sec) (s : State) : (Upd.apply (.sec g) s).nextId = s.nextId := rfl
@[simp] theorem Upd.sec_log (g : Sec → Sec) (s : State) : (Upd.apply (.sec g) s).log = s.log := rfl
@[simp] theorem Upd.sec_logCount (g : Sec → Sec) (s : State) : (Upd.apply (.sec g) s).logCount = s.logCount := rfl
@[simp] theorem Upd.sec_tstat (g : Sec → Sec) (s : State) : (Upd.apply (.sec g) s).tstat = s.tstat := rfl
@[simp] theorem Upd.sec_ce (g : Sec → Sec) (s : State) : (Upd.apply (.sec g) s).ce = s.ce := rfl
@[simp] theorem Upd.sec_ports (g : Sec → Sec) (s : State) : (Upd.apply (.sec g) s).ports = s.ports := rfl
@[simp] theorem Upd.sec_power (g : Sec → Sec) (s : State) : (Upd.apply (.sec g) s).power = s.power := rfl
@[simp] theorem Upd.sec_nvs (g : Sec → Sec) (s : State) : (Upd.apply (.sec g) s).nvs = s.nvs := rfl
@[simp] theorem Upd.sec_deferred (g : Sec → Sec) (s : State) : (Upd.apply (.sec g) s).deferred = s.deferred := rfl
@[simp] theorem Upd.sec_out (g : Sec → Sec) (s : State) : (Upd.apply (.sec g) s).out = s.out := rfl
@[simp] theorem Upd.sec_free (g : Sec → Sec) (s : State) : (Upd.apply (.sec g) s).free = s.free := rfl
@[simp] theorem Upd.nvs_pending (g : Nvs → Nvs) (s : State) : (Upd.apply (.nvs g) s).pending = s.pending := rfl
@[simp] theorem Upd.nvs_regs (g : Nvs → Nvs) (s : State) : (Upd.apply (.nvs g) s).regs = s.regs := rfl
@[simp] theorem Upd.nvs_staged (g : Nvs → Nvs) (s : State) : (Upd.apply (.nvs g) s).staged = s.staged := rfl
@[simp] theorem Upd.nvs_mem (g : Nvs → Nvs) (s : State) : (Upd.apply (.nvs g) s).mem = s.mem := rfl
@[simp] theorem Upd.nvs_fns (g : Nvs → Nvs) (s : State) : (Upd.apply (.nvs g) s).fns = s.fns := rfl
@[simp] theorem Upd.nvs_cores (g : Nvs → Nvs) (s : State) : (Upd.apply (.nvs g) s).cores = s.cores := rfl
@[simp] theorem Upd.nvs_dies (g : Nvs → Nvs) (s : State) : (Upd.apply (.nvs g) s).dies = s.dies := rfl
@[simp] theorem Upd.nvs_parts (g : Nvs → Nvs) (s : State) : (Upd.apply (.nvs g) s).parts = s.parts := rfl
@[simp] theorem Upd.nvs_queues (g : Nvs → Nvs) (s : State) : (Upd.apply (.nvs g) s).queues = s.queues := rfl
@[simp] theorem Upd.nvs_tasks (g : Nvs → Nvs) (s : State) : (Upd.apply (.nvs g) s).tasks = s.tasks := rfl
@[simp] theorem Upd.nvs_reqs (g : Nvs → Nvs) (s : State) : (Upd.apply (.nvs g) s).reqs = s.reqs := rfl
@[simp] theorem Upd.nvs_stores (g : Nvs → Nvs) (s : State) : (Upd.apply (.nvs g) s).stores = s.stores := rfl
@[simp] theorem Upd.nvs_nextId (g : Nvs → Nvs) (s : State) : (Upd.apply (.nvs g) s).nextId = s.nextId := rfl
@[simp] theorem Upd.nvs_log (g : Nvs → Nvs) (s : State) : (Upd.apply (.nvs g) s).log = s.log := rfl
@[simp] theorem Upd.nvs_logCount (g : Nvs → Nvs) (s : State) : (Upd.apply (.nvs g) s).logCount = s.logCount := rfl
@[simp] theorem Upd.nvs_tstat (g : Nvs → Nvs) (s : State) : (Upd.apply (.nvs g) s).tstat = s.tstat := rfl
@[simp] theorem Upd.nvs_ce (g : Nvs → Nvs) (s : State) : (Upd.apply (.nvs g) s).ce = s.ce := rfl
@[simp] theorem Upd.nvs_ports (g : Nvs → Nvs) (s : State) : (Upd.apply (.nvs g) s).ports = s.ports := rfl
@[simp] theorem Upd.nvs_power (g : Nvs → Nvs) (s : State) : (Upd.apply (.nvs g) s).power = s.power := rfl
@[simp] theorem Upd.nvs_sec (g : Nvs → Nvs) (s : State) : (Upd.apply (.nvs g) s).sec = s.sec := rfl
@[simp] theorem Upd.nvs_deferred (g : Nvs → Nvs) (s : State) : (Upd.apply (.nvs g) s).deferred = s.deferred := rfl
@[simp] theorem Upd.nvs_out (g : Nvs → Nvs) (s : State) : (Upd.apply (.nvs g) s).out = s.out := rfl
@[simp] theorem Upd.nvs_free (g : Nvs → Nvs) (s : State) : (Upd.apply (.nvs g) s).free = s.free := rfl
@[simp] theorem Upd.deferred_pending (g : List Deferred → List Deferred) (s : State) : (Upd.apply (.deferred g) s).pending = s.pending := rfl
@[simp] theorem Upd.deferred_regs (g : List Deferred → List Deferred) (s : State) : (Upd.apply (.deferred g) s).regs = s.regs := rfl
@[simp] theorem Upd.deferred_staged (g : List Deferred → List Deferred) (s : State) : (Upd.apply (.deferred g) s).staged = s.staged := rfl
@[simp] theorem Upd.deferred_mem (g : List Deferred → List Deferred) (s : State) : (Upd.apply (.deferred g) s).mem = s.mem := rfl
@[simp] theorem Upd.deferred_fns (g : List Deferred → List Deferred) (s : State) : (Upd.apply (.deferred g) s).fns = s.fns := rfl
@[simp] theorem Upd.deferred_cores (g : List Deferred → List Deferred) (s : State) : (Upd.apply (.deferred g) s).cores = s.cores := rfl
@[simp] theorem Upd.deferred_dies (g : List Deferred → List Deferred) (s : State) : (Upd.apply (.deferred g) s).dies = s.dies := rfl
@[simp] theorem Upd.deferred_parts (g : List Deferred → List Deferred) (s : State) : (Upd.apply (.deferred g) s).parts = s.parts := rfl
@[simp] theorem Upd.deferred_queues (g : List Deferred → List Deferred) (s : State) : (Upd.apply (.deferred g) s).queues = s.queues := rfl
@[simp] theorem Upd.deferred_tasks (g : List Deferred → List Deferred) (s : State) : (Upd.apply (.deferred g) s).tasks = s.tasks := rfl
@[simp] theorem Upd.deferred_reqs (g : List Deferred → List Deferred) (s : State) : (Upd.apply (.deferred g) s).reqs = s.reqs := rfl
@[simp] theorem Upd.deferred_stores (g : List Deferred → List Deferred) (s : State) : (Upd.apply (.deferred g) s).stores = s.stores := rfl
@[simp] theorem Upd.deferred_nextId (g : List Deferred → List Deferred) (s : State) : (Upd.apply (.deferred g) s).nextId = s.nextId := rfl
@[simp] theorem Upd.deferred_log (g : List Deferred → List Deferred) (s : State) : (Upd.apply (.deferred g) s).log = s.log := rfl
@[simp] theorem Upd.deferred_logCount (g : List Deferred → List Deferred) (s : State) : (Upd.apply (.deferred g) s).logCount = s.logCount := rfl
@[simp] theorem Upd.deferred_tstat (g : List Deferred → List Deferred) (s : State) : (Upd.apply (.deferred g) s).tstat = s.tstat := rfl
@[simp] theorem Upd.deferred_ce (g : List Deferred → List Deferred) (s : State) : (Upd.apply (.deferred g) s).ce = s.ce := rfl
@[simp] theorem Upd.deferred_ports (g : List Deferred → List Deferred) (s : State) : (Upd.apply (.deferred g) s).ports = s.ports := rfl
@[simp] theorem Upd.deferred_power (g : List Deferred → List Deferred) (s : State) : (Upd.apply (.deferred g) s).power = s.power := rfl
@[simp] theorem Upd.deferred_sec (g : List Deferred → List Deferred) (s : State) : (Upd.apply (.deferred g) s).sec = s.sec := rfl
@[simp] theorem Upd.deferred_nvs (g : List Deferred → List Deferred) (s : State) : (Upd.apply (.deferred g) s).nvs = s.nvs := rfl
@[simp] theorem Upd.deferred_out (g : List Deferred → List Deferred) (s : State) : (Upd.apply (.deferred g) s).out = s.out := rfl
@[simp] theorem Upd.deferred_free (g : List Deferred → List Deferred) (s : State) : (Upd.apply (.deferred g) s).free = s.free := rfl
@[simp] theorem Upd.newId_pending (n : Nat) (s : State) : (Upd.apply (.newId n) s).pending = s.pending := rfl
@[simp] theorem Upd.newId_regs (n : Nat) (s : State) : (Upd.apply (.newId n) s).regs = s.regs := rfl
@[simp] theorem Upd.newId_staged (n : Nat) (s : State) : (Upd.apply (.newId n) s).staged = s.staged := rfl
@[simp] theorem Upd.newId_mem (n : Nat) (s : State) : (Upd.apply (.newId n) s).mem = s.mem := rfl
@[simp] theorem Upd.newId_fns (n : Nat) (s : State) : (Upd.apply (.newId n) s).fns = s.fns := rfl
@[simp] theorem Upd.newId_cores (n : Nat) (s : State) : (Upd.apply (.newId n) s).cores = s.cores := rfl
@[simp] theorem Upd.newId_dies (n : Nat) (s : State) : (Upd.apply (.newId n) s).dies = s.dies := rfl
@[simp] theorem Upd.newId_parts (n : Nat) (s : State) : (Upd.apply (.newId n) s).parts = s.parts := rfl
@[simp] theorem Upd.newId_queues (n : Nat) (s : State) : (Upd.apply (.newId n) s).queues = s.queues := rfl
@[simp] theorem Upd.newId_tasks (n : Nat) (s : State) : (Upd.apply (.newId n) s).tasks = s.tasks := rfl
@[simp] theorem Upd.newId_reqs (n : Nat) (s : State) : (Upd.apply (.newId n) s).reqs = s.reqs := rfl
@[simp] theorem Upd.newId_stores (n : Nat) (s : State) : (Upd.apply (.newId n) s).stores = s.stores := rfl
@[simp] theorem Upd.newId_log (n : Nat) (s : State) : (Upd.apply (.newId n) s).log = s.log := rfl
@[simp] theorem Upd.newId_logCount (n : Nat) (s : State) : (Upd.apply (.newId n) s).logCount = s.logCount := rfl
@[simp] theorem Upd.newId_tstat (n : Nat) (s : State) : (Upd.apply (.newId n) s).tstat = s.tstat := rfl
@[simp] theorem Upd.newId_ce (n : Nat) (s : State) : (Upd.apply (.newId n) s).ce = s.ce := rfl
@[simp] theorem Upd.newId_ports (n : Nat) (s : State) : (Upd.apply (.newId n) s).ports = s.ports := rfl
@[simp] theorem Upd.newId_power (n : Nat) (s : State) : (Upd.apply (.newId n) s).power = s.power := rfl
@[simp] theorem Upd.newId_sec (n : Nat) (s : State) : (Upd.apply (.newId n) s).sec = s.sec := rfl
@[simp] theorem Upd.newId_nvs (n : Nat) (s : State) : (Upd.apply (.newId n) s).nvs = s.nvs := rfl
@[simp] theorem Upd.newId_deferred (n : Nat) (s : State) : (Upd.apply (.newId n) s).deferred = s.deferred := rfl
@[simp] theorem Upd.newId_out (n : Nat) (s : State) : (Upd.apply (.newId n) s).out = s.out := rfl
@[simp] theorem Upd.newId_free (n : Nat) (s : State) : (Upd.apply (.newId n) s).free = s.free := rfl
@[simp] theorem Upd.emit_pending (o : Out) (s : State) : (Upd.apply (.emit o) s).pending = s.pending := rfl
@[simp] theorem Upd.emit_regs (o : Out) (s : State) : (Upd.apply (.emit o) s).regs = s.regs := rfl
@[simp] theorem Upd.emit_staged (o : Out) (s : State) : (Upd.apply (.emit o) s).staged = s.staged := rfl
@[simp] theorem Upd.emit_mem (o : Out) (s : State) : (Upd.apply (.emit o) s).mem = s.mem := rfl
@[simp] theorem Upd.emit_fns (o : Out) (s : State) : (Upd.apply (.emit o) s).fns = s.fns := rfl
@[simp] theorem Upd.emit_cores (o : Out) (s : State) : (Upd.apply (.emit o) s).cores = s.cores := rfl
@[simp] theorem Upd.emit_dies (o : Out) (s : State) : (Upd.apply (.emit o) s).dies = s.dies := rfl
@[simp] theorem Upd.emit_parts (o : Out) (s : State) : (Upd.apply (.emit o) s).parts = s.parts := rfl
@[simp] theorem Upd.emit_queues (o : Out) (s : State) : (Upd.apply (.emit o) s).queues = s.queues := rfl
@[simp] theorem Upd.emit_tasks (o : Out) (s : State) : (Upd.apply (.emit o) s).tasks = s.tasks := rfl
@[simp] theorem Upd.emit_reqs (o : Out) (s : State) : (Upd.apply (.emit o) s).reqs = s.reqs := rfl
@[simp] theorem Upd.emit_stores (o : Out) (s : State) : (Upd.apply (.emit o) s).stores = s.stores := rfl
@[simp] theorem Upd.emit_nextId (o : Out) (s : State) : (Upd.apply (.emit o) s).nextId = s.nextId := rfl
@[simp] theorem Upd.emit_log (o : Out) (s : State) : (Upd.apply (.emit o) s).log = s.log := rfl
@[simp] theorem Upd.emit_logCount (o : Out) (s : State) : (Upd.apply (.emit o) s).logCount = s.logCount := rfl
@[simp] theorem Upd.emit_tstat (o : Out) (s : State) : (Upd.apply (.emit o) s).tstat = s.tstat := rfl
@[simp] theorem Upd.emit_ce (o : Out) (s : State) : (Upd.apply (.emit o) s).ce = s.ce := rfl
@[simp] theorem Upd.emit_ports (o : Out) (s : State) : (Upd.apply (.emit o) s).ports = s.ports := rfl
@[simp] theorem Upd.emit_power (o : Out) (s : State) : (Upd.apply (.emit o) s).power = s.power := rfl
@[simp] theorem Upd.emit_sec (o : Out) (s : State) : (Upd.apply (.emit o) s).sec = s.sec := rfl
@[simp] theorem Upd.emit_nvs (o : Out) (s : State) : (Upd.apply (.emit o) s).nvs = s.nvs := rfl
@[simp] theorem Upd.emit_deferred (o : Out) (s : State) : (Upd.apply (.emit o) s).deferred = s.deferred := rfl
@[simp] theorem Upd.emit_free (o : Out) (s : State) : (Upd.apply (.emit o) s).free = s.free := rfl
@[simp] theorem Upd.draw_pending (n : Nat) (s : State) : (Upd.apply (.draw n) s).pending = s.pending := rfl
@[simp] theorem Upd.draw_regs (n : Nat) (s : State) : (Upd.apply (.draw n) s).regs = s.regs := rfl
@[simp] theorem Upd.draw_staged (n : Nat) (s : State) : (Upd.apply (.draw n) s).staged = s.staged := rfl
@[simp] theorem Upd.draw_mem (n : Nat) (s : State) : (Upd.apply (.draw n) s).mem = s.mem := rfl
@[simp] theorem Upd.draw_fns (n : Nat) (s : State) : (Upd.apply (.draw n) s).fns = s.fns := rfl
@[simp] theorem Upd.draw_cores (n : Nat) (s : State) : (Upd.apply (.draw n) s).cores = s.cores := rfl
@[simp] theorem Upd.draw_dies (n : Nat) (s : State) : (Upd.apply (.draw n) s).dies = s.dies := rfl
@[simp] theorem Upd.draw_parts (n : Nat) (s : State) : (Upd.apply (.draw n) s).parts = s.parts := rfl
@[simp] theorem Upd.draw_queues (n : Nat) (s : State) : (Upd.apply (.draw n) s).queues = s.queues := rfl
@[simp] theorem Upd.draw_tasks (n : Nat) (s : State) : (Upd.apply (.draw n) s).tasks = s.tasks := rfl
@[simp] theorem Upd.draw_reqs (n : Nat) (s : State) : (Upd.apply (.draw n) s).reqs = s.reqs := rfl
@[simp] theorem Upd.draw_stores (n : Nat) (s : State) : (Upd.apply (.draw n) s).stores = s.stores := rfl
@[simp] theorem Upd.draw_nextId (n : Nat) (s : State) : (Upd.apply (.draw n) s).nextId = s.nextId := rfl
@[simp] theorem Upd.draw_log (n : Nat) (s : State) : (Upd.apply (.draw n) s).log = s.log := rfl
@[simp] theorem Upd.draw_logCount (n : Nat) (s : State) : (Upd.apply (.draw n) s).logCount = s.logCount := rfl
@[simp] theorem Upd.draw_tstat (n : Nat) (s : State) : (Upd.apply (.draw n) s).tstat = s.tstat := rfl
@[simp] theorem Upd.draw_ce (n : Nat) (s : State) : (Upd.apply (.draw n) s).ce = s.ce := rfl
@[simp] theorem Upd.draw_ports (n : Nat) (s : State) : (Upd.apply (.draw n) s).ports = s.ports := rfl
@[simp] theorem Upd.draw_power (n : Nat) (s : State) : (Upd.apply (.draw n) s).power = s.power := rfl
@[simp] theorem Upd.draw_sec (n : Nat) (s : State) : (Upd.apply (.draw n) s).sec = s.sec := rfl
@[simp] theorem Upd.draw_nvs (n : Nat) (s : State) : (Upd.apply (.draw n) s).nvs = s.nvs := rfl
@[simp] theorem Upd.draw_deferred (n : Nat) (s : State) : (Upd.apply (.draw n) s).deferred = s.deferred := rfl
@[simp] theorem Upd.draw_out (n : Nat) (s : State) : (Upd.apply (.draw n) s).out = s.out := rfl

@[simp] theorem Upd.poison_pending (g : Nat) (on : Bool) (s : State) : (Upd.apply (.poison g on) s).pending = s.pending := by cases on <;> rfl
@[simp] theorem Upd.poison_regs (g : Nat) (on : Bool) (s : State) : (Upd.apply (.poison g on) s).regs = s.regs := by cases on <;> rfl
@[simp] theorem Upd.poison_staged (g : Nat) (on : Bool) (s : State) : (Upd.apply (.poison g on) s).staged = s.staged := by cases on <;> rfl
@[simp] theorem Upd.poison_fns (g : Nat) (on : Bool) (s : State) : (Upd.apply (.poison g on) s).fns = s.fns := by cases on <;> rfl
@[simp] theorem Upd.poison_cores (g : Nat) (on : Bool) (s : State) : (Upd.apply (.poison g on) s).cores = s.cores := by cases on <;> rfl
@[simp] theorem Upd.poison_dies (g : Nat) (on : Bool) (s : State) : (Upd.apply (.poison g on) s).dies = s.dies := by cases on <;> rfl
@[simp] theorem Upd.poison_parts (g : Nat) (on : Bool) (s : State) : (Upd.apply (.poison g on) s).parts = s.parts := by cases on <;> rfl
@[simp] theorem Upd.poison_queues (g : Nat) (on : Bool) (s : State) : (Upd.apply (.poison g on) s).queues = s.queues := by cases on <;> rfl
@[simp] theorem Upd.poison_tasks (g : Nat) (on : Bool) (s : State) : (Upd.apply (.poison g on) s).tasks = s.tasks := by cases on <;> rfl
@[simp] theorem Upd.poison_reqs (g : Nat) (on : Bool) (s : State) : (Upd.apply (.poison g on) s).reqs = s.reqs := by cases on <;> rfl
@[simp] theorem Upd.poison_stores (g : Nat) (on : Bool) (s : State) : (Upd.apply (.poison g on) s).stores = s.stores := by cases on <;> rfl
@[simp] theorem Upd.poison_nextId (g : Nat) (on : Bool) (s : State) : (Upd.apply (.poison g on) s).nextId = s.nextId := by cases on <;> rfl
@[simp] theorem Upd.poison_log (g : Nat) (on : Bool) (s : State) : (Upd.apply (.poison g on) s).log = s.log := by cases on <;> rfl
@[simp] theorem Upd.poison_logCount (g : Nat) (on : Bool) (s : State) : (Upd.apply (.poison g on) s).logCount = s.logCount := by cases on <;> rfl
@[simp] theorem Upd.poison_tstat (g : Nat) (on : Bool) (s : State) : (Upd.apply (.poison g on) s).tstat = s.tstat := by cases on <;> rfl
@[simp] theorem Upd.poison_ce (g : Nat) (on : Bool) (s : State) : (Upd.apply (.poison g on) s).ce = s.ce := by cases on <;> rfl
@[simp] theorem Upd.poison_ports (g : Nat) (on : Bool) (s : State) : (Upd.apply (.poison g on) s).ports = s.ports := by cases on <;> rfl
@[simp] theorem Upd.poison_power (g : Nat) (on : Bool) (s : State) : (Upd.apply (.poison g on) s).power = s.power := by cases on <;> rfl
@[simp] theorem Upd.poison_sec (g : Nat) (on : Bool) (s : State) : (Upd.apply (.poison g on) s).sec = s.sec := by cases on <;> rfl
@[simp] theorem Upd.poison_nvs (g : Nat) (on : Bool) (s : State) : (Upd.apply (.poison g on) s).nvs = s.nvs := by cases on <;> rfl
@[simp] theorem Upd.poison_deferred (g : Nat) (on : Bool) (s : State) : (Upd.apply (.poison g on) s).deferred = s.deferred := by cases on <;> rfl
@[simp] theorem Upd.poison_out (g : Nat) (on : Bool) (s : State) : (Upd.apply (.poison g on) s).out = s.out := by cases on <;> rfl
@[simp] theorem Upd.poison_free (g : Nat) (on : Bool) (s : State) : (Upd.apply (.poison g on) s).free = s.free := by cases on <;> rfl

/-! ### The field that an update changes -/

@[simp] theorem Upd.reg_regs (r : Reg) (v : DWord) (s : State) : (Upd.apply (.reg r v) s).regs = tset s.regs r (v &&& r.name.held) := rfl
@[simp] theorem Upd.fld_regs (f : Fld) (i j v : Nat) (s : State) :
    (Upd.apply (.fld f i j v) s).regs = tset s.regs ⟨f.reg, i, j⟩ (setBits (s.reg ⟨f.reg, i, j⟩) f.lo f.w v &&& f.reg.held) := rfl
@[simp] theorem Upd.add_regs (r : Reg) (n : Nat) (s : State) :
    (Upd.apply (.add r n) s).regs = tset s.regs r (BitVec.ofNat 64 ((s.reg r).toNat + n) &&& r.name.held) := rfl
@[simp] theorem Upd.resetReg_regs (r : Reg) (s : State) : (Upd.apply (.resetReg r) s).regs = tdel s.regs r := rfl
@[simp] theorem Upd.stage_staged (r : Reg) (v : DWord) (s : State) : (Upd.apply (.stage r v) s).staged = tset s.staged r (v &&& r.name.held) := rfl
@[simp] theorem Upd.unstage_staged (r : Reg) (s : State) : (Upd.apply (.unstage r) s).staged = tdel s.staged r := rfl
@[simp] theorem Upd.cell_mem (a : Nat) (b : Byte) (s : State) : (Upd.apply (.cell a b) s).mem = s.mem.set a b := rfl
@[simp] theorem Upd.fill_mem (lo hi : Nat) (u : Bool) (s : State) :
    (Upd.apply (.fill lo hi u) s).mem = s.mem.fillRange lo hi (if u then some s.free else none) := rfl
@[simp] theorem Upd.clearMem_mem (s : State) : (Upd.apply .clearMem s).mem = {} := rfl
@[simp] theorem Upd.fn_fns (f : Fn) (g : FnState → FnState) (s : State) : (Upd.apply (.fn f g) s).fns = tset s.fns f (g (s.fn f)) := rfl
@[simp] theorem Upd.core_cores (c : Nat) (g : Core → Core) (s : State) : (Upd.apply (.core c g) s).cores = tset s.cores c (g (s.core c)) := rfl
@[simp] theorem Upd.die_dies (d : Nat) (g : DieState → DieState) (s : State) : (Upd.apply (.die d g) s).dies = tset s.dies d (g (s.die d)) := rfl
@[simp] theorem Upd.part_parts (p : Nat) (g : Part → Part) (s : State) : (Upd.apply (.part p g) s).parts = tset s.parts p (g (s.part p)) := rfl
@[simp] theorem Upd.queue_queues (p q : Nat) (g : Queue → Queue) (s : State) :
    (Upd.apply (.queue p q g) s).queues = tset s.queues (p, q) (g (s.queue p q)) := rfl
@[simp] theorem Upd.tasks_tasks (g : List Task → List Task) (s : State) : (Upd.apply (.tasks g) s).tasks = g s.tasks := rfl
@[simp] theorem Upd.reqs_reqs (g : List Request → List Request) (s : State) : (Upd.apply (.reqs g) s).reqs = g s.reqs := rfl
@[simp] theorem Upd.stores_stores (g : List Store → List Store) (s : State) : (Upd.apply (.stores g) s).stores = g s.stores := rfl
@[simp] theorem Upd.log_log (g : List FaultRec → List FaultRec) (s : State) : (Upd.apply (.log g) s).log = g s.log := rfl
@[simp] theorem Upd.logged_logCount (s : State) : (Upd.apply .logged s).logCount = s.logCount + 1 := rfl
@[simp] theorem Upd.port_ports (g : Nat) (h : Port → Port) (s : State) : (Upd.apply (.port g h) s).ports = tset s.ports g (h (s.port g)) := rfl
@[simp] theorem Upd.power_power (g : PowerCtl → PowerCtl) (s : State) : (Upd.apply (.power g) s).power = g s.power := rfl
@[simp] theorem Upd.sec_sec (g : Sec → Sec) (s : State) : (Upd.apply (.sec g) s).sec = g s.sec := rfl
@[simp] theorem Upd.nvs_nvs (g : Nvs → Nvs) (s : State) : (Upd.apply (.nvs g) s).nvs = g s.nvs := rfl
@[simp] theorem Upd.deferred_deferred (g : List Deferred → List Deferred) (s : State) : (Upd.apply (.deferred g) s).deferred = g s.deferred := rfl
@[simp] theorem Upd.newId_nextId (n : Nat) (s : State) : (Upd.apply (.newId n) s).nextId = s.nextId + n := rfl
@[simp] theorem Upd.emit_out (o : Out) (s : State) : (Upd.apply (.emit o) s).out = s.out ++ [o] := rfl
@[simp] theorem Upd.draw_free (n : Nat) (s : State) : (Upd.apply (.draw n) s).free = s.free + n := rfl

end Sys2Proof.Machine
end

