-- ==== Sys2Proof/Laws/Ops.lean ====
section
/-! SUPPORT. Laws of the shared operations: tables, registers and their fields, memory, and the lists of updates. -/

namespace Sys2Proof.Machine

/-! ### Tables -/

section tables
variable {κ α : Type} [DecidableEq κ]

@[simp] theorem tget_tdel_self (t : Tbl κ α) (k : κ) (d : α) : tget (tdel t k) k d = d := by
  unfold tdel
  induction t with
  | nil => rfl
  | cons e r ih =>
    rw [List.filter_cons]
    split
    · next h => rw [tget, if_neg (of_decide_eq_true h), ih]
    · exact ih

theorem tget_tdel_ne (t : Tbl κ α) {k k' : κ} (d : α) (h : k ≠ k') : tget (tdel t k) k' d = tget t k' d := by
  unfold tdel
  induction t with
  | nil => rfl
  | cons e r ih =>
    rw [List.filter_cons]
    split
    · rw [tget, tget, ih]
    · next hk =>
      have hk : e.1 = k := by simpa using hk
      rw [ih, tget, if_neg (by rw [hk]; exact h)]

theorem tset_eq (t : Tbl κ α) (k : κ) (v : α) : tset t k v = (k, v) :: tdel t k := rfl

theorem tget_tset (t : Tbl κ α) (k k' : κ) (v d : α) : tget (tset t k v) k' d = if k = k' then v else tget t k' d := by
  rw [tset_eq, tget]
  split
  · rfl
  · next h => exact tget_tdel_ne t d h
@[simp] theorem tget_tset_self (t : Tbl κ α) (k : κ) (v d : α) : tget (tset t k v) k d = v := by rw [tget_tset, if_pos rfl]
theorem tget_tset_ne (t : Tbl κ α) {k k' : κ} (v d : α) (h : k ≠ k') : tget (tset t k v) k' d = tget t k' d := by
  rw [tget_tset, if_neg h]

/-- What holds of every entry of a table holds after an entry is set. -/
theorem tset_forall {t : Tbl κ α} {k : κ} {v : α} {P : κ × α → Prop} (h : ∀ e ∈ t, P e) (hv : P (k, v)) : ∀ e ∈ tset t k v, P e := by
  intro e he
  rcases List.mem_cons.1 he with rfl | he
  · exact hv
  · exact h e (List.mem_filter.1 he).1

/-- A key stands once in a table after it is set. -/
theorem tset_once {t : Tbl κ α} {k : κ} {v : α} (h : t.Pairwise fun x y => x.1 ≠ y.1) : (tset t k v).Pairwise fun x y => x.1 ≠ y.1 := by
  refine List.pairwise_cons.2 ⟨?_, h.filter _⟩
  intro e he
  exact fun hk => of_decide_eq_true (List.mem_filter.1 he).2 hk.symm

end tables

/-! ### Registers and fields -/

theorem State.reg_reg (s : State) (r r' : Reg) (v : DWord) : (Upd.apply (.reg r v) s).reg r' = if r = r' then v &&& r.name.held else s.reg r' := by
  by_cases h : r = r'
  · subst h; simp [State.reg]
  · simp [State.reg, h, tget_tset_ne]

theorem State.reg_fld (s : State) (f : Fld) (i j v : Nat) (r' : Reg) :
    (Upd.apply (.fld f i j v) s).reg r' = if ⟨f.reg, i, j⟩ = r' then setBits (s.reg r') f.lo f.w v &&& r'.name.held else s.reg r' := by
  by_cases h : (⟨f.reg, i, j⟩ : Reg) = r'
  · subst h; simp [State.reg]
  · simp [State.reg, h, tget_tset_ne]

theorem State.reg_add (s : State) (r r' : Reg) (n : Nat) :
    (Upd.apply (.add r n) s).reg r' = if r = r' then BitVec.ofNat 64 ((s.reg r').toNat + n) &&& r'.name.held else s.reg r' := by
  by_cases h : r = r'
  · subst h; simp [State.reg]
  · simp [State.reg, h, tget_tset_ne]

theorem State.reg_resetReg (s : State) (r r' : Reg) : (Upd.apply (.resetReg r) s).reg r' = if r = r' then r'.name.reset else s.reg r' := by
  by_cases h : r = r'
  · subst h; simp [State.reg]
  · simp [State.reg, h, tget_tdel_ne]

/-- The field lies in its register's named bits. -/
def Fld.fits (f : Fld) : Bool := decide (f.lo + f.w ≤ 64) && f.reg.held.toNat / 2 ^ f.lo % 2 ^ f.w == 2 ^ f.w - 1

theorem setBits_split (a x c lo w : Nat) (hc : c < 2 ^ lo) (hx : x < 2 ^ w) :
    (a * 2 ^ w + x) * 2 ^ lo + c - ((((a * 2 ^ w + x) * 2 ^ lo + c) / 2 ^ lo) % 2 ^ w) * 2 ^ lo = a * 2 ^ w * 2 ^ lo + c := by
  have h1 : ((a * 2 ^ w + x) * 2 ^ lo + c) / 2 ^ lo = a * 2 ^ w + x := by
    rw [Nat.add_comm, Nat.add_mul_div_right _ _ (Nat.two_pow_pos lo), Nat.div_eq_of_lt hc, Nat.zero_add]
  rw [h1, Nat.add_comm (a * 2 ^ w), Nat.add_mul_mod_self_right, Nat.mod_eq_of_lt hx, Nat.add_mul]
  omega

/-- A replaced field holds the new value; the bits below and above it stay. -/
theorem setBits_toNat (v : DWord) (lo w x : Nat) (h : lo + w ≤ 64) :
    (setBits v lo w x).toNat = (v.toNat / 2 ^ (lo + w) * 2 ^ w + x % 2 ^ w) * 2 ^ lo + v.toNat % 2 ^ lo := by
  have hd : v.toNat = (v.toNat / 2 ^ (lo + w) * 2 ^ w + v.toNat / 2 ^ lo % 2 ^ w) * 2 ^ lo + v.toNat % 2 ^ lo := by
    rw [Nat.pow_add, ← Nat.div_div_eq_div_mul, Nat.div_add_mod', Nat.div_add_mod']
  have hx : x % 2 ^ w < 2 ^ w := Nat.mod_lt _ (Nat.two_pow_pos w)
  have hc : v.toNat % 2 ^ lo < 2 ^ lo := Nat.mod_lt _ (Nat.two_pow_pos lo)
  have hm : v.toNat / 2 ^ lo % 2 ^ w < 2 ^ w := Nat.mod_lt _ (Nat.two_pow_pos w)
  have hs := setBits_split (v.toNat / 2 ^ (lo + w)) (v.toNat / 2 ^ lo % 2 ^ w) (v.toNat % 2 ^ lo) lo w hc hm
  rw [← hd] at hs
  have hlt : (v.toNat / 2 ^ (lo + w) * 2 ^ w + x % 2 ^ w) * 2 ^ lo + v.toNat % 2 ^ lo < 2 ^ 64 := by
    have ha : v.toNat / 2 ^ (lo + w) < 2 ^ (64 - (lo + w)) := by
      apply Nat.div_lt_of_lt_mul
      rw [← Nat.pow_add, Nat.add_sub_cancel' h]
      exact v.isLt
    have h1 : v.toNat / 2 ^ (lo + w) * 2 ^ w + x % 2 ^ w < 2 ^ (64 - (lo + w)) * 2 ^ w :=
      calc _ < v.toNat / 2 ^ (lo + w) * 2 ^ w + 2 ^ w := Nat.add_lt_add_left hx _
        _ = (v.toNat / 2 ^ (lo + w) + 1) * 2 ^ w := by rw [Nat.add_mul, Nat.one_mul]
        _ ≤ _ := Nat.mul_le_mul_right _ ha
    calc _ < (v.toNat / 2 ^ (lo + w) * 2 ^ w + x % 2 ^ w) * 2 ^ lo + 2 ^ lo := Nat.add_lt_add_left hc _
      _ = (v.toNat / 2 ^ (lo + w) * 2 ^ w + x % 2 ^ w + 1) * 2 ^ lo := by rw [Nat.add_mul _ 1, Nat.one_mul]
      _ ≤ 2 ^ (64 - (lo + w)) * 2 ^ w * 2 ^ lo := Nat.mul_le_mul_right _ h1
      _ = 2 ^ 64 := by rw [← Nat.pow_add, ← Nat.pow_add]; congr 1; omega
  rw [setBits, BitVec.toNat_ofNat, hs]
  have : v.toNat / 2 ^ (lo + w) * 2 ^ w * 2 ^ lo + v.toNat % 2 ^ lo + x % 2 ^ w * 2 ^ lo =
      (v.toNat / 2 ^ (lo + w) * 2 ^ w + x % 2 ^ w) * 2 ^ lo + v.toNat % 2 ^ lo := by rw [Nat.add_mul]; omega
  rw [this, Nat.mod_eq_of_lt hlt]

/-- Bit k of a word whose field has been replaced. -/
theorem setBits_testBit (v : DWord) (lo w x k : Nat) (h : lo + w ≤ 64) :
    (setBits v lo w x).toNat.testBit k = if lo ≤ k ∧ k < lo + w then x.testBit (k - lo) else v.toNat.testBit k := by
  have hx : x % 2 ^ w < 2 ^ w := Nat.mod_lt _ (Nat.two_pow_pos w)
  have hc : v.toNat % 2 ^ lo < 2 ^ lo := Nat.mod_lt _ (Nat.two_pow_pos lo)
  rw [setBits_toNat _ _ _ _ h, Nat.mul_comm _ (2 ^ lo), Nat.testBit_two_pow_mul_add _ hc]
  split
  · next hk => rw [if_neg (by omega), Nat.testBit_mod_two_pow]; simp [hk]
  · next hk =>
    rw [Nat.mul_comm _ (2 ^ w), Nat.testBit_two_pow_mul_add _ hx]
    split
    · next hw => rw [if_pos (by omega), Nat.testBit_mod_two_pow]; simp [hw]
    · next hw => rw [if_neg (by omega), Nat.testBit_div_two_pow]; congr 1; omega

/-- What a field holds after itself is set. -/
theorem State.get_fld_self (s : State) (f : Fld) (i j v : Nat) (hf : f.fits = true) :
    (Upd.apply (.fld f i j v) s).get f i j = v % 2 ^ f.w := by
  obtain ⟨h64, hm⟩ : f.lo + f.w ≤ 64 ∧ f.reg.held.toNat / 2 ^ f.lo % 2 ^ f.w = 2 ^ f.w - 1 := by simpa [Fld.fits] using hf
  rw [State.get, State.reg_fld, if_pos rfl, BitVec.toNat_and]
  apply Nat.eq_of_testBit_eq
  intro k
  have hmk := congrArg (fun n => Nat.testBit n k) hm
  simp only [Nat.testBit_mod_two_pow, Nat.testBit_div_two_pow, Nat.testBit_two_pow_sub_one] at hmk
  simp only [Nat.testBit_mod_two_pow, Nat.testBit_div_two_pow, Nat.testBit_and, setBits_testBit _ _ _ _ _ h64]
  by_cases hk : k < f.w
  · simp only [hk, decide_true, Bool.true_and] at hmk ⊢
    rw [Nat.add_comm] at hmk ⊢
    simp [hmk, hk]
  · simp [hk]

/-- Two fields of one register that have no bit in common. -/
def Fld.apart (f g : Fld) : Bool := f.reg != g.reg || decide (f.lo + f.w ≤ g.lo ∨ g.lo + g.w ≤ f.lo)

/-- A field apart from the one that is set keeps its value. -/
theorem State.get_fld_apart (s : State) (f g : Fld) (i j i' j' v : Nat) (hf : f.fits = true) (hg : g.fits = true)
    (h : f.apart g = true) : (Upd.apply (.fld f i j v) s).get g i' j' = s.get g i' j' := by
  obtain ⟨h64, -⟩ : f.lo + f.w ≤ 64 ∧ f.reg.held.toNat / 2 ^ f.lo % 2 ^ f.w = 2 ^ f.w - 1 := by simpa [Fld.fits] using hf
  obtain ⟨-, hm⟩ : g.lo + g.w ≤ 64 ∧ g.reg.held.toNat / 2 ^ g.lo % 2 ^ g.w = 2 ^ g.w - 1 := by simpa [Fld.fits] using hg
  rw [State.get, State.get, State.reg_fld]
  split
  · next hr =>
    have hreg : f.reg = g.reg := congrArg Reg.name hr
    have hap : f.lo + f.w ≤ g.lo ∨ g.lo + g.w ≤ f.lo := by simpa [Fld.apart, hreg] using h
    rw [BitVec.toNat_and]
    apply Nat.eq_of_testBit_eq
    intro k
    have hmk := congrArg (fun n => Nat.testBit n k) hm
    simp only [Nat.testBit_mod_two_pow, Nat.testBit_div_two_pow, Nat.testBit_two_pow_sub_one] at hmk
    simp only [Nat.testBit_mod_two_pow, Nat.testBit_div_two_pow, Nat.testBit_and, setBits_testBit _ _ _ _ _ h64]
    by_cases hk : k < g.w
    · simp only [hk, decide_true, Bool.true_and] at hmk ⊢
      rw [hmk, Bool.and_true, if_neg (by omega)]
    · simp [hk]
  · rfl

/-- A field of another register keeps its value. -/
theorem State.get_of_reg_eq {s t : State} (g : Fld) (i j : Nat) (h : t.reg ⟨g.reg, i, j⟩ = s.reg ⟨g.reg, i, j⟩) : t.get g i j = s.get g i j := by
  rw [State.get, State.get, h]

/-! ### Lists of updates and actions -/

@[simp] theorem applyAll_nil (s : State) : applyAll [] s = s := rfl
@[simp] theorem applyAll_cons (u : Upd) (us : List Upd) (s : State) : applyAll (u :: us) s = applyAll us (u.apply s) := rfl
theorem applyAll_append (us vs : List Upd) (s : State) : applyAll (us ++ vs) s = applyAll vs (applyAll us s) := by
  induction us generalizing s with
  | nil => rfl
  | cons u us ih => exact ih _

@[simp] theorem run_skip (s : State) : run Act.skip s = s := rfl
@[simp] theorem run_of (us : List Upd) (s : State) : run (Act.of us) s = applyAll us s := rfl
@[simp] theorem run_seq (a b : Act) (s : State) : run (a.seq b) s = run b (run a s) := applyAll_append _ _ _
@[simp] theorem run_all_nil (s : State) : run (Act.all []) s = s := rfl
@[simp] theorem run_all_cons (a : Act) (r : List Act) (s : State) : run (Act.all (a :: r)) s = run (Act.all r) (run a s) := run_seq _ _ _
@[simp] theorem run_look (f : State → Act) (s : State) : run (Act.look f) s = run (f s) s := rfl
theorem run_when (c : State → Bool) (a : Act) (s : State) : run (Act.when c a) s = if c s then run a s else s := by
  unfold run Act.when; split <;> rfl
@[simp] theorem run_set (f : Fld) (i j v : Nat) (s : State) : run (Act.set f i j v) s = (Upd.fld f i j v).apply s := rfl
@[simp] theorem run_count (r : RegName) (i j n : Nat) (s : State) : run (Act.count r i j n) s = (Upd.add ⟨r, i, j⟩ n).apply s := rfl
@[simp] theorem run_each_nil {α : Type} (f : α → Act) (s : State) : run (Act.each [] f) s = s := rfl
@[simp] theorem run_each_cons {α : Type} (x : α) (xs : List α) (f : α → Act) (s : State) :
    run (Act.each (x :: xs) f) s = run (Act.each xs f) (run (f x) s) := run_seq _ _ _
/-- An action acts by what it answers in the state that it finds. -/
theorem run_congr {a b : Act} {s : State} (h : a s = b s) : run a s = run b s := by rw [run, run, h]

/-- Every command completes: its meaning answers the state that its updates leave. -/
theorem perform_next (a : Act) (s : State) : perform a s = .next (run a s) := rfl

/-- What every single update keeps, a list of updates keeps. -/
theorem applyAll_induct {P : State → Prop} (us : List Upd) (h : ∀ u ∈ us, ∀ s, P s → P (u.apply s)) : ∀ s, P s → P (applyAll us s) := by
  induction us with
  | nil => exact fun _ hs => hs
  | cons u us ih =>
    exact fun s hs => ih (fun v hv => h v (List.mem_cons_of_mem _ hv)) _ (h u List.mem_cons_self s hs)

/-- No update touches the command queue. -/
@[simp] theorem Upd.apply_pending (u : Upd) (s : State) : (u.apply s).pending = s.pending := by
  cases u <;> first | rfl | (rename_i on; cases on <;> rfl)
@[simp] theorem applyAll_pending (us : List Upd) (s : State) : (applyAll us s).pending = s.pending := by
  induction us generalizing s with
  | nil => rfl
  | cons u us ih => exact (ih _).trans (u.apply_pending s)
@[simp] theorem run_pending (a : Act) (s : State) : (run a s).pending = s.pending := applyAll_pending _ _

/-! ### Actions of a restricted kind -/

/-- Every update of the action has a property, in whatever state the action is. -/
def Act.Only (P : Upd → Prop) (a : Act) : Prop := ∀ s, ∀ u ∈ a s, P u

namespace Act.Only
variable {P : Upd → Prop}

theorem skip : Act.Only P Act.skip := fun _ _ h => absurd h List.not_mem_nil
theorem nil : Act.Only P (fun _ => []) := skip
theorem of {us : List Upd} (h : ∀ u ∈ us, P u) : Act.Only P (Act.of us) := fun _ => h
theorem seq {a b : Act} (ha : Act.Only P a) (hb : Act.Only P b) : Act.Only P (a.seq b) := by
  intro s u hu
  rcases List.mem_append.1 hu with h | h
  · exact ha _ _ h
  · exact hb _ _ h
theorem all : ∀ {as : List Act}, (∀ a ∈ as, Act.Only P a) → Act.Only P (Act.all as)
  | [], _ => skip
  | _ :: _, h => seq (h _ List.mem_cons_self) (all fun b hb => h b (List.mem_cons_of_mem _ hb))
theorem each {α : Type} {xs : List α} {f : α → Act} (h : ∀ x ∈ xs, Act.Only P (f x)) : Act.Only P (Act.each xs f) := by
  apply all
  intro a ha
  obtain ⟨x, hx, rfl⟩ := List.mem_map.1 ha
  exact h x hx
theorem look {f : State → Act} (h : ∀ s, Act.Only P (f s)) : Act.Only P (Act.look f) := fun s => h s s
/-- An action that depends on the state it finds. -/
theorem dep {f : State → Act} (h : ∀ s, Act.Only P (f s)) : Act.Only P (fun s => f s s) := fun s => h s s
theorem when {c : State → Bool} {a : Act} (h : Act.Only P a) : Act.Only P (Act.when c a) := by
  intro s u hu
  rw [Act.when] at hu
  split at hu
  · exact h s u hu
  · exact absurd hu List.not_mem_nil
theorem ite {c : Prop} [Decidable c] {a b : Act} (ha : Act.Only P a) (hb : Act.Only P b) : Act.Only P (if c then a else b) := by
  split
  · exact ha
  · exact hb
theorem set {f : Fld} {i j v : Nat} (h : P (.fld f i j v)) : Act.Only P (Act.set f i j v) := fun _ u hu => by
  rw [List.mem_singleton.1 hu]; exact h
theorem count {r : RegName} {i j n : Nat} (h : P (.add ⟨r, i, j⟩ n)) : Act.Only P (Act.count r i j n) := fun _ u hu => by
  rw [List.mem_singleton.1 hu]; exact h

end Act.Only

/-- What every update of a restricted action keeps, the action keeps. -/
theorem run_induct {P : Upd → Prop} {Q : State → Prop} {a : Act} (ha : Act.Only P a) (h : ∀ u, P u → ∀ s, Q s → Q (u.apply s)) (s : State)
    (hs : Q s) : Q (run a s) := applyAll_induct (a s) (fun u hu => h u (ha s u hu)) s hs

/-- The update may change register r. -/
def Upd.hits (u : Upd) (r : Reg) : Prop :=
  match u with
  | .reg r' _ | .add r' _ | .resetReg r' => r' = r
  | .fld f i j _ => (⟨f.reg, i, j⟩ : Reg) = r
  | .restart => True
  | .resetBlocks => True
  | _ => False

/-- A register that no update writes keeps its value. -/
theorem Upd.reg_of_not_hits (u : Upd) (r : Reg) (h : ¬ u.hits r) (s : State) : (u.apply s).reg r = s.reg r := by
  cases u with
  | reg r' v => exact (State.reg_reg _ _ _ _).trans (if_neg h)
  | fld f i j v => exact (State.reg_fld _ _ _ _ _ _).trans (if_neg h)
  | add r' n => exact (State.reg_add _ _ _ _).trans (if_neg h)
  | resetReg r' => exact (State.reg_resetReg _ _ _).trans (if_neg h)
  | restart => exact absurd trivial h
  | resetBlocks => exact absurd trivial h
  | poison g on => cases on <;> rfl
  | _ => rfl

theorem run_reg {a : Act} {r : Reg} (ha : Act.Only (fun u => ¬ u.hits r) a) (s : State) : (run a s).reg r = s.reg r :=
  run_induct (Q := fun t => t.reg r = s.reg r) ha (fun u hu t ht => (u.reg_of_not_hits r hu t).trans ht) s rfl

/-- The update may change the memory. -/
def Upd.hitsMem (u : Upd) : Prop :=
  match u with
  | .cell _ _ | .poison _ _ | .reported _ | .fill _ _ _ | .clearMem | .restart => True
  | _ => False

theorem run_mem {a : Act} (ha : Act.Only (fun u => ¬ u.hitsMem) a) (s : State) : (run a s).mem = s.mem :=
  run_induct (Q := fun t => t.mem = s.mem) ha (fun u hu t ht => by
    cases u <;> first | exact ht | exact absurd trivial hu) s rfl

/-! ### Memory -/

theorem cellSet_cons (k : Nat) (v : Byte) (r : List Host.Cell) (a : Nat) (b : Option Byte) :
    cellSet ((k, v) :: r) a b = if a < k then (match b with
      | some x => (a, x) :: (k, v) :: r
      | none => (k, v) :: r)
    else if k = a then (match b with
      | some x => (a, x) :: r
      | none => r)
    else (k, v) :: cellSet r a b := by cases b <;> rfl

theorem cellGet_cellSet_self (c : List Host.Cell) (a : Nat) (b : Option Byte) (hc : c.Pairwise fun x y => x.1 < y.1) :
    cellGet (cellSet c a b) a = b := by
  induction c with
  | nil => cases b <;> simp [cellSet, cellGet]
  | cons e r ih =>
    obtain ⟨k, v⟩ := e
    obtain ⟨he, hr⟩ := List.pairwise_cons.1 hc
    rw [cellSet_cons]
    split
    · next h => cases b <;> simp [cellGet, h, Nat.ne_of_gt h]
    · next h =>
      split
      · next h2 =>
        subst h2
        cases b with
        | some x => simp [cellGet]
        | none =>
          cases r with
          | nil => rfl
          | cons e2 r2 =>
            have := he e2 List.mem_cons_self
            simp only at this
            simp [cellGet, this, Nat.ne_of_gt this]
      · next h2 => simp [cellGet, h2, h, ih hr]

theorem cellGet_cellSet_ne (c : List Host.Cell) (a a' : Nat) (b : Option Byte) (hc : c.Pairwise fun x y => x.1 < y.1) (h : a ≠ a') :
    cellGet (cellSet c a b) a' = cellGet c a' := by
  induction c with
  | nil => cases b <;> simp [cellSet, cellGet, h]
  | cons e r ih =>
    obtain ⟨k, v⟩ := e
    obtain ⟨he, hr⟩ := List.pairwise_cons.1 hc
    have none_above : ∀ (l : List Host.Cell) (x : Nat), (∀ e ∈ l, x < e.1) → cellGet l x = none := by
      intro l x hl
      cases l with
      | nil => rfl
      | cons e2 r2 =>
        have := hl e2 List.mem_cons_self
        obtain ⟨k2, v2⟩ := e2
        simp only at this
        simp [cellGet, this, Nat.ne_of_gt this]
    rw [cellSet_cons]
    split
    · next hlt =>
      cases b with
      | none => rfl
      | some x =>
        simp only [cellGet, h, if_false]
        split
        · next h2 => rw [if_neg (by omega), if_pos (by omega)]
        · rfl
    · next hlt =>
      split
      · next hk =>
        subst hk
        cases b with
        | some x => simp [cellGet, h]
        | none =>
          simp only [cellGet, h, if_false]
          split
          · next h2 => exact none_above r a' fun e he2 => Nat.lt_trans h2 (he e he2)
          · rfl
      · next hk =>
        simp only [cellGet]
        split
        · rfl
        · split
          · rfl
          · exact ih hr

theorem mem_cellSet {c : List Host.Cell} {a : Nat} {b : Option Byte} {e : Host.Cell} (h : e ∈ cellSet c a b) : e ∈ c ∨ b = some e.2 ∧ e.1 = a := by
  induction c with
  | nil =>
    cases b with
    | none => exact absurd h List.not_mem_nil
    | some x => rw [cellSet, List.mem_singleton] at h; subst h; exact .inr ⟨rfl, rfl⟩
  | cons k r ih =>
    obtain ⟨k, v⟩ := k
    rw [cellSet_cons] at h
    split at h
    · cases b with
      | none => exact .inl h
      | some x =>
        rcases List.mem_cons.1 h with rfl | h
        · exact .inr ⟨rfl, rfl⟩
        · exact .inl h
    · split at h
      · next hk =>
        cases b with
        | none => exact .inl (List.mem_cons_of_mem _ h)
        | some x =>
          rcases List.mem_cons.1 h with rfl | h
          · exact .inr ⟨rfl, rfl⟩
          · exact .inl (List.mem_cons_of_mem _ h)
      · rcases List.mem_cons.1 h with rfl | h
        · exact .inl List.mem_cons_self
        · rcases ih h with h | h
          · exact .inl (List.mem_cons_of_mem _ h)
          · exact .inr h

/-- Setting a cell keeps the addresses rising. -/
theorem cellSet_rising (c : List Host.Cell) (a : Nat) (b : Option Byte) (hc : c.Pairwise fun x y => x.1 < y.1) :
    (cellSet c a b).Pairwise fun x y => x.1 < y.1 := by
  induction c with
  | nil => cases b <;> simp [cellSet]
  | cons e r ih =>
    obtain ⟨k, v⟩ := e
    obtain ⟨he, hr⟩ := List.pairwise_cons.1 hc
    rw [cellSet_cons]
    split
    · next h =>
      cases b with
      | none => exact hc
      | some x =>
        refine List.pairwise_cons.2 ⟨?_, hc⟩
        intro y hy
        rcases List.mem_cons.1 hy with rfl | hy
        · exact h
        · exact Nat.lt_trans h (he y hy)
    · next h =>
      split
      · next hk =>
        subst hk
        cases b with
        | none => exact hr
        | some x => exact List.pairwise_cons.2 ⟨he, hr⟩
      · next hk =>
        refine List.pairwise_cons.2 ⟨?_, ih hr⟩
        intro y hy
        rcases mem_cellSet hy with hy | ⟨-, hy⟩
        · exact he y hy
        · simp only [hy]; omega

theorem natInsert_mem {l : List Nat} {a x : Nat} : x ∈ natInsert l a ↔ x = a ∨ x ∈ l := by
  induction l with
  | nil => simp [natInsert]
  | cons k r ih =>
    rw [natInsert]
    split
    · exact List.mem_cons
    · split
      · next h => subst h; simp
      · rw [List.mem_cons, ih, List.mem_cons]
        constructor
        · rintro (h | h | h)
          · exact .inr (.inl h)
          · exact .inl h
          · exact .inr (.inr h)
        · rintro (h | h | h)
          · exact .inr (.inl h)
          · exact .inl h
          · exact .inr (.inr h)

theorem natInsert_rising (l : List Nat) (a : Nat) (h : l.Pairwise (· < ·)) : (natInsert l a).Pairwise (· < ·) := by
  induction l with
  | nil => simp [natInsert]
  | cons k r ih =>
    obtain ⟨hk, hr⟩ := List.pairwise_cons.1 h
    rw [natInsert]
    split
    · next ha =>
      refine List.pairwise_cons.2 ⟨?_, h⟩
      intro y hy
      rcases List.mem_cons.1 hy with rfl | hy
      · exact ha
      · exact Nat.lt_trans ha (hk y hy)
    · split
      · exact h
      · next h1 h2 =>
        refine List.pairwise_cons.2 ⟨?_, ih hr⟩
        intro y hy
        rcases natInsert_mem.1 hy with rfl | hy
        · omega
        · exact hk y hy

/-- A byte reads as it was written. -/
theorem Mem.get_set_self (m : Mem) (a : Nat) (b : Byte) (hm : m.wf) : (m.set a b).get a = b := by
  have hd : (m.set a b).dflt a = m.dflt a := rfl
  rw [Mem.get, hd, Mem.set]
  simp only [cellGet_cellSet_self _ _ _ hm.1]
  split
  · next h =>
    obtain ⟨hb, hk⟩ : b = 0 ∧ m.keepZero a = false := by simpa using h
    subst hb
    rw [Option.getD_none, Mem.dflt]
    rw [Mem.keepZero] at hk
    split at hk
    · cases hk
    · rfl
  · rfl

/-- Every other byte reads as before. -/
theorem Mem.get_set_ne (m : Mem) (a a' : Nat) (b : Byte) (hm : m.wf) (h : a ≠ a') : (m.set a b).get a' = m.get a' := by
  have hd : (m.set a b).dflt a' = m.dflt a' := rfl
  rw [Mem.get, hd, Mem.get, Mem.set]
  simp only [cellGet_cellSet_ne _ _ _ _ hm.1 h]

theorem Mem.set_wf (m : Mem) (a : Nat) (b : Byte) (hm : m.wf) : (m.set a b).wf := by
  refine ⟨cellSet_rising _ _ _ hm.1, ?_, hm.2.2⟩
  intro c hc
  rcases mem_cellSet hc with hc | ⟨hb, hca⟩
  · exact hm.2.1 c hc
  · split at hb
    · cases hb
    · next h =>
      simp only [Option.some.injEq] at hb
      subst hb hca
      by_cases h0 : c.2 = 0
      · have hk : m.keepZero c.1 = true := by simpa [h0] using h
        exact .inr hk
      · exact .inl h0

/-- Outside the filled range the covering range is what it was. -/
theorem Mem.cover_fillRange_ne (m : Mem) (lo hi : Nat) (v : Option Nat) {a : Nat} (h : a < lo ∨ hi ≤ a) :
    (m.fillRange lo hi v).cover a = m.cover a := by
  have key : ∀ l : List (Nat × Nat × Option Nat),
      (l.filter fun r => decide (¬ (lo ≤ r.1 ∧ r.2.1 ≤ hi))).find? (fun r => decide (r.1 ≤ a ∧ a < r.2.1)) =
        l.find? fun r => decide (r.1 ≤ a ∧ a < r.2.1) := by
    intro l
    induction l with
    | nil => rfl
    | cons r l ih =>
      by_cases hr : lo ≤ r.1 ∧ r.2.1 ≤ hi
      · rw [List.filter_cons_of_neg (by simp [hr]), ih, List.find?_cons, decide_eq_false (by omega)]
      · rw [List.filter_cons_of_pos (p := fun r : Nat × Nat × Option Nat => decide (¬ (lo ≤ r.1 ∧ r.2.1 ≤ hi))) (decide_eq_true hr), List.find?_cons, List.find?_cons, ih]
  simp only [Mem.cover, Mem.fillRange]
  split
  · rw [key]
  · rw [List.find?_cons, decide_eq_false (by simp only; omega), key]

/-- A byte of the filled range is free of the named draw, or 0. -/
theorem Mem.get_fillRange_self (m : Mem) (lo hi : Nat) (v : Option Nat) {a : Nat} (h : lo ≤ a ∧ a < hi) :
    (m.fillRange lo hi v).get a = match v with
      | some n => Config.freeByte n a
      | none => 0 := by
  have hc : ∀ (l : List Host.Cell), cellGet (l.filter fun c => decide (c.1 < lo ∨ hi ≤ c.1)) a = none := by
    intro l
    induction l with
    | nil => rfl
    | cons c l ih =>
      by_cases hl : c.1 < lo ∨ hi ≤ c.1
      · rw [List.filter_cons_of_pos (by simpa using hl), cellGet, if_neg (by omega)]
        split
        · rfl
        · exact ih
      · rw [List.filter_cons_of_neg (by simpa using hl), ih]
  have hd : (m.fillRange lo hi v).dflt a = match v with
      | some n => Config.freeByte n a
      | none => 0 := by
    simp only [Mem.dflt, Mem.cover, Mem.fillRange]
    by_cases hv : (v.isNone && (m.undef.filter fun r => decide (¬ (lo ≤ r.1 ∧ r.2.1 ≤ hi))).all fun r => decide (r.2.1 ≤ lo ∨ hi ≤ r.1)) = true
    · rw [if_pos hv]
      simp only [Bool.and_eq_true, Option.isNone_iff_eq_none, List.all_eq_true, decide_eq_true_eq] at hv
      rw [List.find?_eq_none.2 (fun r hr => by have := hv.2 r hr; simp; omega), hv.1]
      rfl
    · rw [if_neg hv, List.find?_cons, decide_eq_true h]
      cases v <;> rfl
  rw [Mem.get, hd]
  show (cellGet (m.cells.filter _) a).getD _ = _
  rw [hc]
  rfl

/-- Outside the filled range nothing changes. -/
theorem Mem.get_fillRange_ne (m : Mem) (lo hi : Nat) (v : Option Nat) {a : Nat} (h : a < lo ∨ hi ≤ a) (hm : m.cells.Pairwise fun x y => x.1 < y.1) :
    (m.fillRange lo hi v).get a = m.get a := by
  have hc : ∀ (l : List Host.Cell), l.Pairwise (fun x y => x.1 < y.1) →
      cellGet (l.filter fun c => decide (c.1 < lo ∨ hi ≤ c.1)) a = cellGet l a := by
    intro l hl
    induction l with
    | nil => rfl
    | cons c l ih =>
      have ih := ih (List.pairwise_cons.1 hl).2
      by_cases hk : c.1 < lo ∨ hi ≤ c.1
      · rw [List.filter_cons_of_pos (by simpa using hk), cellGet, cellGet, ih]
      · rw [List.filter_cons_of_neg (by simpa using hk), ih, cellGet, if_neg (by omega)]
        split
        · next hlt =>
          cases l with
          | nil => rfl
          | cons d l =>
            have := (List.pairwise_cons.1 hl).1 d List.mem_cons_self
            rw [cellGet, if_neg (by omega), if_pos (by omega)]
        · rfl
  rw [Mem.get, Mem.get, Mem.dflt, Mem.dflt, Mem.cover_fillRange_ne m lo hi v h]
  show (cellGet (m.cells.filter _) a).getD _ = _
  rw [hc _ hm]

theorem Mem.fillRange_wf (m : Mem) (lo hi : Nat) (v : Option Nat) (hm : m.wf) : (m.fillRange lo hi v).wf := by
  refine ⟨hm.1.filter _, ?_, hm.2.2⟩
  intro c hc
  obtain ⟨hc, hr⟩ := List.mem_filter.1 hc
  have hr := of_decide_eq_true hr
  rcases hm.2.1 c hc with h | h
  · exact .inl h
  · right
    rw [Mem.keepZero] at h ⊢
    rw [Mem.cover_fillRange_ne m lo hi v hr]
    exact h


theorem reservedZero_tset {t : Tbl Reg DWord} {r : Reg} {v : DWord} (h : reservedZero t) : reservedZero (tset t r (v &&& r.name.held)) :=
  tset_forall h (by simp [BitVec.and_assoc])
theorem reservedZero_filter {t : Tbl Reg DWord} (p : Reg × DWord → Bool) (h : reservedZero t) : reservedZero (t.filter p) :=
  fun e he => h e (List.mem_filter.1 he).1

theorem Upd.apply_inv (u : Upd) (s : State) (h : s.Inv) : (u.apply s).Inv := by
  obtain ⟨hm, hr, hs, hro, hso⟩ := h
  cases u with
  | reg r v => exact ⟨hm, reservedZero_tset hr, hs, tset_once hro, hso⟩
  | fld f i j v => exact ⟨hm, reservedZero_tset hr, hs, tset_once hro, hso⟩
  | add r n => exact ⟨hm, reservedZero_tset hr, hs, tset_once hro, hso⟩
  | stage r v => exact ⟨hm, hr, reservedZero_tset hs, hro, tset_once hso⟩
  | resetReg r => exact ⟨hm, reservedZero_filter _ hr, hs, hro.filter _, hso⟩
  | unstage r => exact ⟨hm, hr, reservedZero_filter _ hs, hro, hso.filter _⟩
  | cell a b => exact ⟨Mem.set_wf _ a b hm, hr, hs, hro, hso⟩
  | poison g on =>
    cases on
    · exact ⟨⟨hm.1, hm.2.1, hm.2.2.filter _⟩, hr, hs, hro, hso⟩
    · exact ⟨⟨hm.1, hm.2.1, natInsert_rising _ _ hm.2.2⟩, hr, hs, hro, hso⟩
  | reported g => exact ⟨hm, hr, hs, hro, hso⟩
  | fill lo hi u => exact ⟨Mem.fillRange_wf _ _ _ _ hm, hr, hs, hro, hso⟩
  | clearMem => exact ⟨⟨List.Pairwise.nil, fun _ hc => absurd hc List.not_mem_nil, List.Pairwise.nil⟩, hr, hs, hro, hso⟩
  | restart =>
    exact ⟨⟨List.Pairwise.nil, fun _ hc => absurd hc List.not_mem_nil, List.Pairwise.nil⟩, reservedZero_filter _ hr,
      fun _ hc => absurd hc List.not_mem_nil, hro.filter _, List.Pairwise.nil⟩
  | resetBlocks => exact ⟨hm, reservedZero_filter _ hr, reservedZero_filter _ hs, hro.filter _, hso.filter _⟩
  | _ => exact ⟨hm, hr, hs, hro, hso⟩

/-- The memory of the state after reset is in its canonical form. -/
theorem State.reset_mem_wf : State.reset.mem.wf :=
  ⟨List.Pairwise.nil, fun _ hc => absurd hc List.not_mem_nil, List.Pairwise.nil⟩

end Sys2Proof.Machine
end

