-- ==== Sys2Proof/WellFormed.lean ====
section
/-! DEFINITION. Which commands are well-formed: the operands that the buses and ports of the module can carry. A command
that is not well-formed cannot arrive; its meaning is still total. -/

namespace Sys2Proof

/-- Operands within what the carrier of the command can hold. -/
def Instr.wf : Instr → Bool
  | .registerWrite _ off bytes _ => decide (off < 0x4000000 ∧ 1 ≤ bytes ∧ bytes ≤ 8)
  | .counterLowHalfRead _ a => decide (a.off < 0x4000000 ∧ 1 ≤ a.bytes ∧ a.bytes ≤ 8)
  | .genRefTimeLoad _ bytes _ _ => decide (bytes = 4 ∨ bytes = 8)
  | .readDataDelivered _ _ d => decide (d.length ≤ 256)
  | .taskDescriptorFetched _ _ d => decide (d.length ≤ 128)
  | .atsCompletion _ page _ => decide (page % 4096 = 0)
  | .prgResponse _ pasid prgi _ => decide (pasid < 2 ^ 20 ∧ prgi < 512)
  | .atsInvalidate _ page z => decide (page % 4096 = 0 ∧ 12 ≤ z)
  | .dataFlit _ _ _ pl _ => decide (pl.length = 248)
  | .idleFlit _ x _ | .nak _ x _ | .ctrlFlit _ x _ _ => decide (x.payload.length = 248)
  | .bar4Read _ _ n => decide (1 ≤ n)
  | .bar4Write _ _ d _ => decide (d ≠ [])
  | .powerOn x y z pmb => decide (x < 16 ∧ y < 16 ∧ z < 16 ∧ pmb < 4)
  | .moduleReset x y z pmb => decide (x < 16 ∧ y < 16 ∧ z < 16 ∧ pmb < 4)
  | .imageWindowWrite _ off bytes _ => decide (off < 0x10000 ∧ (bytes = 4 ∨ bytes = 8) ∧ off % bytes = 0)
  | .spdmChallenge _ _ nonce => decide (nonce.length = 32)
  | .spdmMeasurements _ _ _ nonce => decide (nonce.length = 32)
  | .thermalSample dies _ hbm => decide (dies.length = 4 ∧ hbm.length = 32)
  | .cfgErrWrite _ _ | .opMoveComplete _ | .droopEventStart _ _ | .droopEventEnd _ | .mpass _ | .fillComplete _ | .rowAdmit _ _
  | .passLastResult _ | .letoutTileRepeat _ | .letoutLayerRestart _ | .unpin _ _ | .streamDescriptorFetched _ _ _
  | .streamRequestIssue _ _ _ | .storeAck _ _ | .mcastSegmentFetch _ _ | .runAheadResume _ _ | .runaheadBind _ _
  | .contextSwitch _ _ | .xlatInvalidateStart _ _ | .xlatInvalidateDone _ | .doorbell _ _ _ _ | .taskDispatch _ _
  | .taskStart _ _ | .taskComplete _ | .cplHeadWrite _ _ _ _ | .queueEnable _ _ _ _ | .queueResume _ _ _ | .queueSkip _ _ _
  | .gateSet _ _ _ | .gateAdd _ _ _ | .cfgCommit _ _ | .nop _ | .end_ _ | .loop _ | .vbin _ | .vun _ | .vfma _ | .vred _
  | .vseg _ | .vscatadd _ | .vtopk _ | .vsort _ | .vhist _ | .update _ | .bind _ | .unbind _ | .rearm _ | .sample _ | .move _ _
  | .fill _ | .allreduce _ | .reduceScatter _ | .allgather _ | .scalePrepass _ | .stepClose _ | .wait _ | .waitRelease _ _
  | .signal _ | .barrier _ | .barrierRelease _ | .statRead _ | .statSnap _ | .droverRequestStart _ | .droverRequestDone _
  | .verdict _ | .publish _ _ | .commitBaste _ _ | .touch _ _ _ | .touchAll _ _ | .trainCounterWrite _ _ _ _
  | .trainCfgWrite _ _ _ | .train _ _ | .disable _ _ | .recalNow _ _ | .trainingEnd _ _ | .noPartner _ 
  | .flitTransmit _ | .fastRetrain _ | .fastRetrainComplete _ _ | .lpiEntry _ | .lpiRefresh _
  | .lpiWake _ | .recalStart _ | .recalForced _ | .recalComplete _ | .tallyPacket _ | .collectiveDone _ _
  | .collectiveMissing _ _ | .verdictWaitLimit _ | .verdictTimeout _ | .abortPacket _ | .layoutCommit _ _ | .layoutForce _ _
  | .emaReset _ _ | .standby _ | .wake _ | .capWrite _ _ | .i3cCapWrite _ | .i3cRead _ _ | .i3cAddressAssign _ | .controlTick
  | .foldDutyPeriod | .foldDutyOff | .shedAssert | .shedRelease | .supplyUndervoltage _ | .supplyRecover _ | .overvoltage _
  | .supplyLoss _ | .inputLost | .thermalFold | .thermalTrip | .railCurrent _ | .dieIdle _ | .grazeEntry _ | .energySample _ _
  | .calibration | .learnReset _ | .foldReq _ _ _ | .heartbeat _ | .give _ | .takeover _ | .heartbeatLapse | .ownerLinkLoss
  | .functionAbort _ _ | .abortComplete _ | .functionLevelReset _ | .d3hotEntry _ | .perstAssert _ | .perstRelease _ _ _ _
  | .partitionCommit _ | .hostReadError _ | .spdmGetCertificate _ _ _ _ | .spdmKeyExchange _ _ _ | .spdmHeartbeat _ _
  | .spdmKeyUpdate _ _ | .spdmGetCsr _ | .spdmSetCertificate _ _ | .doeDiscovery _ _ | .ideKm _ _ _ _ | .lmsReservationStore _
  | .ideIntegrityFailure _ _ | .partitionFault _ _ | .partitionFaultComplete _ | .clear _ _ | .reclaim _ _ | .reclaimComplete _
  | .mgmtWatchdog | .mgmtRestartComplete | .patrolScrubRead _ _ _ | .scrubForce _ | .dramRefresh _ | .onchipScrub _ _
  | .wearManagement _ _ | .telemetrySample _ | .faultLogCommit | .fltLogSelect _ _ | .nvsReadSelect _ _ | .traceSelect _ _
  | .tiersReady | .imageUpdate _ | .imageFlashComplete | .fuseCommit _ | .takeOwnership _ | .retire _ | .recoverCommit _
  | .imageWindowRelease | .unlock _ | .relock _ | .debugExpiry | .coreHalt _ _ | .coreResume _ _ | .coreStep _ _
  | .settingsStore _ | .settingsStoreComplete _ | .clearFaults | .statusWord | .readVin | .readIin | .readTemperature1 | .readPin
  | .pmbusRevision | .mfrId | .mfrModel | .pmbusOtherCommand _ _ | .tallyOperandRead _ _ _ | .tokenEvaluationDone
  | .secCommandComplete | .spdmGetVersion _ | .spdmGetCapabilities _ | .spdmNegotiateAlgorithms _ | .spdmFinish _ _
  | .spdmEndSession _ _ | .tapScan _ _ => true

end Sys2Proof
end

