-- ==== Sys2Proof/Tests/Slice0.lean ====
section
/-! SUPPORT. Tests: ill-formed commands are refused, worked values of the spec, and for each statement a state and operands that meet its
hypotheses. -/

namespace Sys2Proof.Tests

open Sys2Proof.Machine

set_option Elab.async false
set_option maxRecDepth 100000

/-! ### Well-formedness: one ill-formed command for each check -/

theorem test_wf_register_size : (Instr.registerWrite .pf0 0 9 0).wf = false := by decide +kernel
theorem test_wf_register_offset : (Instr.registerWrite .pf0 0x4000000 4 0).wf = false := by decide +kernel
theorem test_wf_low_half : (Instr.counterLowHalfRead .pf0 ⟨0x4000000, 4⟩).wf = false := by decide +kernel
theorem test_wf_ref_time : (Instr.genRefTimeLoad .pf0 2 false 0).wf = false := by decide +kernel
theorem test_wf_read_data : (Instr.readDataDelivered 0 .none (List.replicate 257 0)).wf = false := by decide +kernel
theorem test_wf_descriptor : (Instr.taskDescriptorFetched 0 0 (List.replicate 129 0)).wf = false := by decide +kernel
theorem test_wf_ats_page : (Instr.atsCompletion 0 4095 .unusable).wf = false := by decide +kernel
theorem test_wf_prg_index : (Instr.prgResponse .pf0 0 512 true).wf = false := by decide +kernel
theorem test_wf_invalidate_size : (Instr.atsInvalidate .pf0 4096 11).wf = false := by decide +kernel
theorem test_wf_flit : (Instr.dataFlit 0 0 0 (List.replicate 247 0) []).wf = false := by decide +kernel
theorem test_wf_bar4_read : (Instr.bar4Read .pf0 0 0).wf = false := by decide +kernel
theorem test_wf_bar4_write : (Instr.bar4Write .pf0 0 [] false).wf = false := by decide +kernel
theorem test_wf_power_on : (Instr.powerOn 16 0 0 0).wf = false := by decide +kernel
theorem test_wf_module_reset : (Instr.moduleReset 0 0 0 4).wf = false := by decide +kernel
theorem test_wf_window : (Instr.imageWindowWrite .pf0 4 8 0).wf = false := by decide +kernel
theorem test_wf_challenge : (Instr.spdmChallenge .pf0 0 []).wf = false := by decide +kernel
theorem test_wf_measurements : (Instr.spdmMeasurements .pf0 1 true []).wf = false := by decide +kernel
theorem test_wf_temperatures : (Instr.thermalSample [1] 2 []).wf = false := by decide +kernel
theorem test_wf_accepts : (Instr.registerWrite .pf1 0x1000 4 0).wf = true ∧ (Instr.nop 0).wf = true := by decide +kernel
theorem test_no_word_spells_a_command : decodeTableWord 0 0 = none ∧ State.reset.withFetchWord 0 0 = State.reset := ⟨rfl, rfl⟩

/-! ### States -/

/-- A register field with a value; a state with some. -/
def at_ (f : Fld) (v : Nat) (i : Nat := 0) (j : Nat := 0) : Upd := .fld f i j v
def with_ (l : List Upd) (s : State) : State := applyAll l s

/-- Started up, both ports up. -/
def up : State := with_ [at_ F.genStartupStage 5, at_ F.genStartupTiersReady 1, at_ F.hostPortStatusUp 1, at_ F.hostPortStatusUp 1 1] State.reset

/-- Bytes put into memory. -/
def put (a : Nat) (bs : List Byte) (s : State) : State := { s with mem := bs.zipIdx.foldl (fun m e => m.set (a + e.2) e.1) s.mem }

/-- The invariant, checked field by field. -/
theorem inv_of (s : State) (h : s.mem.wf ∧ reservedZero s.regs ∧ reservedZero s.staged ∧ listedOnce s.regs ∧ listedOnce s.staged) : s.Inv :=
  ⟨h.1, h.2.1, h.2.2.1, h.2.2.2.1, h.2.2.2.2⟩

theorem up_inv : up.Inv := inv_of _ (by decide +kernel)

/-! ### Witnesses: the queue and host accesses -/

/-- A partition with work: queue 0 of partition 0 is enabled, with tasks before its tail. -/
def busy : State := with_ [at_ F.hostQCtrlEn 1, at_ F.hostQTailTail 2] up

theorem busy_inv : busy.Inv := inv_of _ (by decide +kernel)

theorem witness_StepRunsFrontCommand : { up with pending := [.nop 0] }.pending = .nop 0 :: [] := rfl
theorem witness_StepKeepsInv : ∃ t, up.Inv ∧ step up = .next t := ⟨_, up_inv, rfl⟩
/-- The last implemented bit and the first reserved one. -/
theorem witness_RegisterWrite : up.Inv ∧ Reaches .pf0 ⟨.hostTrainIrq, 0, 0⟩ up ∧ up.owns .pf0 0 = true ∧
    0x800 &&& RegName.hostTrainIrq.mask.toNat = 0x800 ∧ 0x1000 &&& RegName.hostTrainIrq.mask.toNat ≠ 0x1000 ∧ busAlive up .pf0 = true ∧
    ¬ ((4 = 4 ∨ 4 = 8) ∧ 2 % 4 = 0) := ⟨up_inv, by decide +kernel⟩
theorem witness_TrainRegisters_busy : busy.Inv ∧ Reaches .pf0 ⟨.hostTrainCfg, 0, 0⟩ busy ∧ busy.owns .pf0 0 = true ∧
    (1 : Word).setWidth 64 &&& RegName.hostTrainCfg.mask = (1 : Word).setWidth 64 ∧ trainBusy busy 0 = true ∧
    (1 : Word).setWidth 64 ≠ busy.reg ⟨.hostTrainCfg, 0, 0⟩ := ⟨busy_inv, by decide +kernel⟩
theorem witness_TrainRegisters : up.Inv ∧ Reaches .pf0 ⟨.hostTrainCfg, 0, 0⟩ up ∧ Reaches .pf0 ⟨.hostTrainStep, 0, 0⟩ up ∧
    Reaches .pf0 ⟨.hostTrainApplied, 0, 0⟩ up ∧ up.owns .pf0 0 = true ∧
    (0xFFFF1F : Word).setWidth 64 &&& RegName.hostTrainCfg.mask = (0xFFFF1F : Word).setWidth 64 ∧ trainBusy up 0 = false :=
  ⟨up_inv, by decide +kernel⟩
theorem witness_ReadsAndErrors : up.Inv ∧ busAlive up .pf0 = true ∧ answers up (⟨.genRefTime, 0, 0⟩ : Reg).addr false = true ∧
    regAt .pf0 (⟨.genRefTime, 0, 0⟩ : Reg).addr = some ⟨.genRefTime, 0, 0⟩ ∧ RegName.genRefTime.spec.width = 64 ∧
    readOk up .pf0 ⟨.genRefTime, 0, 0⟩ = true ∧ (⟨.genRefTime, 0, 0⟩ : Reg).addr % 8 = 0 ∧
    answers up ((⟨.genRefTime, 0, 0⟩ : Reg).addr + 4) false = true ∧
    wordAt .pf0 ((⟨.genRefTime, 0, 0⟩ : Reg).addr + 4) = some (⟨.genRefTime, 0, 0⟩, true) ∧ ¬ ((8 = 4 ∨ 8 = 8) ∧ 12 % 8 = 0) ∧
    Reaches .pf0 ⟨.cfgErr, 0, 0⟩ up ∧ (255 : Word).toNat < 256 := ⟨up_inv, by decide +kernel⟩
theorem witness_RefTime : Reaches .pf0 ⟨.genRefTimeLoad, 0, 0⟩ up ∧ up.mgmt = .pf0 ∧ up.pending = [] ∧ up.power.off = false := by decide +kernel

/-! ### Witnesses: queues, gates and commits -/

/-- The farthest tail within the ring of 16 entries, and the nearest beyond it. -/
theorem witness_Doorbell : barsDead busy = false ∧ (busy.fn .pf1).perst = false ∧ busy.owns .pf1 0 = false ∧ busy.owns .pf0 0 = true ∧
    partOpen busy 0 = true ∧ busy.flag F.hostQCtrlEn 0 0 = true ∧ busy.flag F.hostQCtrlEn 0 1 = false ∧
    ((16 : Word).toNat + 2 ^ 32 - busy.get F.hostQHeadHead 0 0) % 2 ^ 32 ≤ ringSize busy 0 0 ∧
    ringSize busy 0 0 < ((17 : Word).toNat + 2 ^ 32 - busy.get F.hostQHeadHead 0 0) % 2 ^ 32 := by decide +kernel
/-- A queue of context 3 in a partition with one context, and one of context 0. -/
def wrongCtx : State := with_ [at_ F.hostQCtrlCtx 3] up
theorem witness_QueueRegisters_ctx : wrongCtx.Inv ∧ Reaches .pf0 ⟨.hostQCtrl, 0, 0⟩ wrongCtx ∧ wrongCtx.owns .pf0 0 = true ∧
    wrongCtx.sec.fuseState ≠ 2 ∧ wrongCtx.queueTasks 0 0 = false ∧ wrongCtx.flag F.hostQCtrlEn 0 0 = false ∧
    wrongCtx.ctxCount 0 ≤ wrongCtx.get F.hostQCtrlCtx 0 0 ∧ up.get F.hostQCtrlCtx 0 0 < up.ctxCount 0 := ⟨inv_of _ (by decide +kernel), by decide +kernel⟩
/-- CPL_HEAD at CPL_TAIL is within the ring, one beyond it is not. -/
theorem witness_QueueRegisters : up.Inv ∧ busy.Inv ∧ Reaches .pf0 ⟨.hostQCtrl, 0, 0⟩ busy ∧ Reaches .pf0 ⟨.hostQCtrl, 0, 0⟩ up ∧
    Reaches .pf0 ⟨.hostQCplHead, 0, 0⟩ up ∧ up.owns .pf0 0 = true ∧ busy.owns .pf0 0 = true ∧ up.sec.fuseState ≠ 2 ∧ busy.sec.fuseState ≠ 2 ∧
    up.queueTasks 0 0 = false ∧ up.flag F.hostQCtrlEn 0 0 = false ∧ busy.queueTasks 0 0 = true ∧ busy.flag F.hostQCtrlEn 0 0 = true ∧
    cplHeadBad up 0 0 (0 : Word).toNat = false ∧ cplHeadBad up 0 0 (1 : Word).toNat = true := ⟨up_inv, busy_inv, by decide +kernel⟩
/-- Queue 0 holds at its task 0. -/
def held : State := { with_ [at_ F.hostQStatusHeld 1] busy with queues := [((0, 0), { held := some 0, next := 1 })] }
theorem witness_HeldQueueReleased : held.Inv ∧ Reaches .pf0 ⟨.hostQCtrl, 0, 0⟩ held ∧ held.owns .pf0 0 = true ∧
    held.flag F.hostQStatusHeld 0 0 = true ∧ held.sec.fuseState ≠ 2 ∧ (held.queue 0 0).held = some 0 ∧ (held.queue 0 0).done = [] :=
  ⟨inv_of _ (by decide +kernel), by decide +kernel⟩
theorem witness_HeldQueueReleased_not : busy.Inv ∧ Reaches .pf0 ⟨.hostQCtrl, 0, 0⟩ busy ∧ busy.owns .pf0 0 = true ∧ busy.sec.fuseState ≠ 2 ∧
    busy.flag F.hostQStatusHeld 0 0 = false := ⟨busy_inv, by decide +kernel⟩
theorem witness_GateWrites : up.Inv ∧ up.owns .pf0 (up.partOfGate 4095) = true ∧ Reaches .pf0 ⟨.hostGate, 4095, 0⟩ up ∧
    Reaches .pf0 ⟨.hostGateAdd, 4095, 0⟩ up := ⟨up_inv, by decide +kernel⟩
/-- A staged count of contexts that one partition cannot have, and a staged layout of the reduction. -/
def badSet : State := with_ [.stage ⟨.hostExec, 0, 0⟩ 3] up
/-- A basted range of less than 2 MiB; a layout that keeps the generation in force. -/
def badBaste : State := with_ [.stage ⟨.hostTrainBasteSize, 0, 0⟩ 20] up
theorem witness_StagedSetsCommit_mismatch : badBaste.Inv ∧ badBaste.partExists 0 = true ∧ abortOf badBaste 0 = false ∧
    Reaches .pf0 ⟨.hostTrainCtrl, 0, 0⟩ badBaste ∧ badBaste.owns .pf0 0 = true ∧ trainBusy badBaste 0 = false ∧ basteOk badBaste 0 = false ∧
    up.partExists 0 = true ∧ abortOf up 0 = false ∧ Reaches .pf0 ⟨.redLayout, 0, 0⟩ up ∧ up.owns .pf0 0 = true ∧ layoutOk up 0 = false :=
  ⟨inv_of _ (by decide +kernel), by decide +kernel⟩
def newShep : State := with_ [.stage ⟨.redShep, 0, 0⟩ 0x100] up
theorem witness_StagedSetsCommit : up.Inv ∧ up.partExists 0 = true ∧ abortOf up 0 = false ∧ Reaches .pf0 ⟨.hostCfgCommit, 0, 0⟩ up ∧
    up.tasksBusy 0 = false ∧ cfgOk up 0 = true ∧ Reaches .pf0 ⟨.hostTrainCtrl, 0, 0⟩ up ∧ up.owns .pf0 0 = true ∧ trainBusy up 0 = false ∧
    basteOk up 0 = true := ⟨up_inv, by decide +kernel⟩
theorem witness_StagedSetsCommit_busy : busy.Inv ∧ busy.partExists 0 = true ∧ abortOf busy 0 = false ∧ Reaches .pf0 ⟨.hostCfgCommit, 0, 0⟩ busy ∧
    busy.tasksBusy 0 = true ∧ Reaches .pf0 ⟨.hostTrainCtrl, 0, 0⟩ busy ∧ busy.owns .pf0 0 = true ∧ trainBusy busy 0 = true := ⟨busy_inv, by decide +kernel⟩
theorem witness_StagedSetsCommit_bad : badSet.Inv ∧ badSet.partExists 0 = true ∧ abortOf badSet 0 = false ∧
    Reaches .pf0 ⟨.hostCfgCommit, 0, 0⟩ badSet ∧ badSet.tasksBusy 0 = false ∧ cfgOk badSet 0 = false := ⟨inv_of _ (by decide +kernel), by decide +kernel⟩
theorem witness_StagedSetsCommit_layout : newShep.Inv ∧ newShep.partExists 0 = true ∧ abortOf newShep 0 = false ∧
    Reaches .pf0 ⟨.redLayout, 0, 0⟩ newShep ∧ newShep.owns .pf0 0 = true ∧ layoutOk newShep 0 = true := ⟨inv_of _ (by decide +kernel), by decide +kernel⟩
/-- Two partitions staged, the second for PF_1. -/
def twoParts : State := with_ [.stage ⟨.hostPartCfg, 0, 0⟩ 0x21] up
theorem witness_PartitionCommit : twoParts.mgmt = .pf0 ∧ Reaches .pf0 ⟨.hostPartCommit, 0, 0⟩ twoParts ∧ partsOk twoParts = true ∧
    (∀ p ∈ partsAffected twoParts, partBusy twoParts p = false ∧ abortOf twoParts p = false) ∧
    twoParts.stagedGet F.hostPartCfgLayout ≠ twoParts.layout := by decide +kernel
/-- The one partition is given to PF_1. -/
def newOwner : State := with_ [.stage ⟨.hostPartCfg, 0, 0⟩ 0x10] up
theorem witness_PartitionCommit_owner : newOwner.mgmt = .pf0 ∧ Reaches .pf0 ⟨.hostPartCommit, 0, 0⟩ newOwner ∧ partsOk newOwner = true ∧
    (∀ p ∈ partsAffected newOwner, partBusy newOwner p = false ∧ abortOf newOwner p = false) ∧
    newOwner.stagedGet F.hostPartCfgLayout = newOwner.layout ∧ 0 ∈ partsAffected newOwner := by decide +kernel
/-- Device translation on, with one table chain to a leaf of 1 GiB at 0, and a record address in it. -/
def leaf (s : State) : State := put 0 (bytesOf 8 0x10001) (put 0x10000 (bytesOf 8 15) (with_ [at_ F.memXlatCtrlEn 1] s))
def recorded : State := with_ [at_ F.hostTrainRecAddr 0x8800] (leaf up)
def params : State := with_ [at_ F.hostTrainParamEn 1, at_ F.hostTrainParamLast 5] up
theorem witness_TrainingControls : params.Inv ∧ params.partExists 0 = true ∧ Reaches .pf0 ⟨.hostTrainCtrl, 0, 0⟩ params ∧
    params.owns .pf0 0 = true ∧ (4095 : Fin 4096).val < tensorsOf params ∧ params.flag F.hostTrainParamEn 0 = true ∧
    Reaches .pf0 ⟨.telLoCtrl, 0, 0⟩ params ∧ Reaches .pf0 ⟨.redNoiseCfg, 0, 0⟩ params := ⟨inv_of _ (by decide +kernel), by decide +kernel⟩
/-- With two partitions the identifier 2048 is the first beyond a partition's range. -/
def split : State := with_ [at_ F.hostPartCfgLayout 1] up
theorem split_inv : split.Inv := inv_of _ (by decide +kernel)
theorem witness_TrainingControls_range : split.Inv ∧ split.partExists 1 = true ∧ Reaches .pf0 ⟨.hostTrainCtrl, 1, 0⟩ split ∧
    split.owns .pf0 1 = true ∧ tensorsOf split ≤ (2048 : Fin 4096).val ∧ (2047 : Fin 4096).val < tensorsOf split := ⟨split_inv, by decide +kernel⟩
theorem witness_TrainingControls_publish : recorded.Inv ∧ Reaches .pf0 ⟨.hostTrainCtrl, 0, 0⟩ recorded ∧ recorded.owns .pf0 0 = true ∧
    recorded.get F.hostTrainRecAddr 0 ≠ 0 ∧ (recorded.part 0).boundary = [] ∧ isHostLoc (0x220000 + 63) = false ∧
    recorded.poisonIn 0x220000 64 = none ∧
    writeRange recorded 0 0 true (recorded.get F.hostTrainRecAddr 0 * 64) false (stepRecord recorded 0 (recorded.get F.hostTrainStatusLastVerdict 0)) =
      .inl [(0x220000, stepRecord recorded 0 (recorded.get F.hostTrainStatusLastVerdict 0))] := ⟨inv_of _ (by decide +kernel), by decide +kernel⟩

/-! ### Witnesses: translation, BAR4 and the selecting registers -/

/-- An invalidation of the first 64 KiB is in progress, with one translation in it and one next to it. -/
def cached (va : Nat) : Xlat := { va := va, size := 0x10000, loc := 0, r := true, w := true }
def inval : State := { with_ [at_ F.memXlatInvDone 0] (leaf up) with parts := [(0, { invRange := some (0, 0x10000), tlb := [cached 0, cached 0x10000] })] }
def invalIdle : State := with_ [at_ F.memXlatInvDone 1] up
theorem witness_DeviceInvalidation : inval.Inv ∧ inval.partExists 0 = true ∧ Reaches .pf0 ⟨.memXlatInv, 0, 0⟩ inval ∧
    inval.flag F.memXlatInvDone 0 = false ∧ (inval.part 0).invRange = some (0, 0x10000) ∧
    (∀ r ∈ inval.reqs, inval.partOfCore r.core ≠ 0) ∧ (∀ x ∈ inval.stores, inval.partOfCore x.core ≠ 0) := ⟨inv_of _ (by decide +kernel), by decide +kernel⟩
/-- A read of the first 256 bytes is outstanding. -/
def invalRead : State := { inval with reqs := [{ id := 3, core := 0, ctx := 0, slot := 0, task := 7, loc := 0, len := 256, offload := false, members := [] }] }
theorem witness_DeviceInvalidation_waits : invalRead.Inv ∧ invalRead.partExists 0 = true ∧ (invalRead.part 0).invRange = some (0, 0x10000) ∧
    ∃ r ∈ invalRead.reqs, invalRead.partOfCore r.core = 0 ∧ ∃ x ∈ (invalRead.part 0).tlb, rangesMeet x.va x.size 0 0x10000 = true ∧
      rangesMeet x.loc x.size r.loc r.len = true := ⟨inv_of _ (by decide +kernel), by decide +kernel⟩
theorem witness_DeviceInvalidation_start : invalIdle.Inv ∧ invalIdle.partExists 0 = true ∧ Reaches .pf0 ⟨.memXlatInv, 0, 0⟩ invalIdle ∧
    invalIdle.flag F.memXlatInvDone 0 = true := ⟨inv_of _ (by decide +kernel), by decide +kernel⟩
def asked : AtsReq := { page := 0x3000, write := false, ps := 5, who := .task 7 0 }
def pri : PageReq := { p := 0, q := 0, index := 0, startTime := 0, irq := false, pasid := 1, prgi := 0, faulted := false }
def asking : State := { up with parts := [(0, { atsReqs := [asked] })], fns := [(.pf0, { prq := [pri] })] }
theorem witness_HostTranslation : (asking.part 0).atsReqs = [asked] ∧ asked.page % 4096 = 0 ∧ (∃ id core, asked.who = .task id core) ∧
    (∀ r ∈ asking.reqs, isHostLoc r.loc = false) ∧ (∀ x ∈ asking.stores, isHostLoc x.loc = false) ∧ (asking.fn .pf0).invs = [] ∧
    (asking.fn .pf0).prq = [pri] ∧ pri.faulted = false := ⟨rfl, rfl, ⟨7, 0, rfl⟩, by decide +kernel⟩
/-- Poison of the granule at 64. -/
def poisoned : State := { up with mem := { up.mem with poison := [1] } }
theorem witness_HostAccesses : up.Inv ∧ bar4Judge up .pf0 0 64 = .ok 0 ∧ up.stores = [] ∧ bar4Judge up .pf1 0 1 = .marked { acc := true } ∧
    up.poisonIn 0 64 = none ∧ bar4Judge up .pf0 0x1000 (List.replicate 64 (7 : Byte)).length = .ok 0x1000 := ⟨up_inv, by decide +kernel⟩
theorem witness_HostAccesses_fetch : partOpen busy 0 = true ∧ busy.flag F.hostQCtrlEn 0 0 = true ∧ busy.flag F.hostQStatusHeld 0 0 = false ∧
    (busy.queue 0 0).fetched = none := by decide +kernel
def hostReq : Request := { id := 3, core := 0, ctx := 0, slot := 0, task := 7, loc := hostLoc .pf0 0x10000, len := 64, offload := false, members := [] }
theorem witness_HostAccesses_ahead : { up with reqs := [hostReq] }.reqs = [hostReq] ∧ isHostLoc hostReq.loc = true ∧
    reached { up with reqs := [hostReq] } hostReq = false := by decide +kernel
def debugged : State := with_ [at_ F.dbgLevelCur 3] up
theorem debugged_inv : debugged.Inv := inv_of _ (by decide +kernel)
/-- The last selectable offset of the settings memory, and an index at the end of an empty trace. -/
theorem witness_ViewSelection : debugged.Inv ∧ Reaches .pf0 ⟨.fltLogSel, 0, 0⟩ debugged ∧ Reaches .pf0 ⟨.nvsRdAddr, 0, 0⟩ debugged ∧
    (0x7FFF00 : Word).toNat % 256 = 0 ∧ (0x7FFF00 : Word).toNat < 2 ^ 23 ∧ Reaches .pf0 ⟨.dbgTraceSel, 0, 0⟩ debugged ∧
    1 ≤ debugged.get F.dbgLevelCur ∧ debugged.sec.traceCount ≤ (0 : Word).toNat := ⟨debugged_inv, by decide +kernel⟩

/-! ### Witnesses: ownership, aborts, resets and partition faults -/

def watched : State := with_ [at_ F.hostMgmtHbMs 5] up
theorem watched_inv : watched.Inv := inv_of _ (by decide +kernel)
theorem witness_Management : watched.Inv ∧ Reaches .pf0 ⟨.hostMgmtCmd, 0, 0⟩ watched ∧ mgmtOk watched .pf0 .heartbeat = true ∧
    mgmtOk watched .pf0 .give = true ∧ mgmtOk watched .pf1 .takeover = false ∧ watched.get F.hostMgmtHbMs ≠ 0 ∧
    (watched.fn watched.mgmt).hbLate = false ∧ watched.flag F.hostPortStatusUp watched.mgmt.idx = true := ⟨watched_inv, by decide +kernel⟩
/-- The owner's heartbeat is late. -/
def late : State := { watched with fns := [(.pf0, { hbLate := true })] }
theorem witness_Management_takeover : late.Inv ∧ Reaches .pf1 ⟨.hostMgmtCmd, 0, 0⟩ late ∧ mgmtOk late .pf1 .takeover = true :=
  ⟨inv_of _ (by decide +kernel), by decide +kernel⟩
/-- An abort of PF_0 is under way and has stopped its partition. -/
def aborting : State := { with_ [at_ F.hostAbortStatusBusy 1] up with parts := [(0, { draining := true })] }
theorem witness_FunctionAbort : up.Inv ∧ Reaches .pf0 ⟨.hostAbort, 0, 0⟩ up ∧ Reaches .pf1 ⟨.hostAbort, 1, 0⟩ up ∧
    up.flag F.hostAbortStatusBusy 0 = false ∧ up.flag F.hostAbortStatusBusy 1 = false ∧ asleep up = false ∧ up.partsOf .pf0 ≠ [] ∧
    up.partsOf .pf1 = [] ∧ (∀ p ∈ up.partsOf .pf0, verdictWaits up p = false) := ⟨up_inv, by decide +kernel⟩
/-- A verdict has come and its boundary is not complete. -/
def verdictIn : State := { up with parts := [(0, { boundary := [{ addr := 0, bytes := [], gate := some 5, verdict := some 0, msg := false }] })] }
theorem witness_FunctionAbort_verdict : verdictIn.Inv ∧ Reaches .pf0 ⟨.hostAbort, 0, 0⟩ verdictIn ∧ verdictIn.flag F.hostAbortStatusBusy 0 = false ∧
    asleep verdictIn = false ∧ 0 ∈ verdictIn.partsOf .pf0 ∧ verdictWaits verdictIn 0 = true := ⟨inv_of _ (by decide +kernel), by decide +kernel⟩
theorem witness_FunctionAbort_complete : abortReady aborting .pf0 = true ∧ aborting.deferred = [] ∧ aborting.power.standbyPending = false := by decide +kernel
def inReset : State := { up with fns := [(.pf1, { perst := true })] }
theorem witness_FunctionResets : up.flag F.hostAbortStatusBusy 1 = false ∧ up.partsOf .pf1 = [] ∧ up.flag F.hostAbortStatusBusy 0 = false ∧
    asleep up = false ∧ up.partsOf .pf0 ≠ [] ∧ ownsTasks up .pf0 = false ∧ (up.fn .pf0).perst = false ∧ (inReset.fn .pf1).perst = true ∧
    asleep inReset = false ∧ 3 ≤ inReset.get F.genStartupStage := by decide +kernel
def faultRec : FaultRec := { code := 0x3018, scope := 2, part := some 0, unit := 0, time := 5 }
/-- A partition fault that is being handled; one whose handling is done; one whose partition is reclaimed. -/
def faulting : State := { with_ [at_ F.fltPartStatusFaulted 1] up with parts := [(0, { draining := true, faultPending := some faultRec })] }
def faulted : State := with_ [at_ F.fltPartStatusFaulted 1] up
def reclaiming : State := with_ [at_ F.fltPartStatusReclaiming 1] faulted
theorem faulted_inv : faulted.Inv := inv_of _ (by decide +kernel)
theorem witness_PartitionFault : up.partExists 0 = true ∧ asleep up = false ∧ up.flag F.fltPartStatusFaulted 0 = false ∧
    (faulting.part 0).faultPending = some faultRec ∧ drained faulting 0 = true ∧ reclaiming.flag F.fltPartStatusReclaiming 0 = true ∧
    (reclaiming.part 0).clearDue = false := by decide +kernel
theorem witness_PartitionFault_clear : faulted.Inv ∧ Reaches .pf0 ⟨.fltPartCtrl, 0, 0⟩ faulted ∧ faulted.owns .pf0 0 = true ∧
    faulted.flag F.fltPartStatusFaulted 0 = true ∧ (faulted.part 0).faultPending = none := ⟨faulted_inv, by decide +kernel⟩

/-! ### Witnesses: error checks, background work and power -/

def scrubbed : State := with_ [at_ F.fltScrubCfgEn 1] up
theorem scrubbed_inv : scrubbed.Inv := inv_of _ (by decide +kernel)
/-- The first byte of tier 1, and the first of a die buffer and of a local memory. -/
theorem witness_Background : scrubbed.Inv ∧ scrubbed.flag F.fltScrubCfgEn = true ∧ isTier 0 = true ∧ tierAwake scrubbed 0 = true ∧
    scrubbed.mem.isPoison 0 = false ∧ placeOf (bufferBase 0) = .buffer 0 ∧ placeOf (localBase 0) = .localMem 0 ∧ asleep scrubbed = false ∧
    scrubbed.mem.isPoison (bufferBase 0) = false ∧ scrubbed.mem.isPoison (localBase 0) = false ∧ ceIx (.tier2 15) < 48 ∧
    scrubbed.nvs.job = none ∧ scrubbed.sec.lmsStoring = false ∧ scrubbed.power.off = false ∧ 89999 < 90000 ∧ scrubbed.sec.restarting = false :=
  ⟨scrubbed_inv, by decide +kernel⟩
theorem witness_Background_commit : { up with nvs := { due := [(0, faultRec)] } }.nvs.due = [(0, faultRec)] ∧
    { up with nvs := { due := [(0, faultRec)] } }.nvs.lastCommit = none ∧ { up with nvs := { due := [(0, faultRec)] } }.nvs.hour = [] ∧
    up.sec.lmsStoring = false ∧ up.power.off = false := by decide +kernel
def shed : State := with_ [at_ F.pwrShedPin 1] up
/-- The least and the greatest value that a cap field carries. -/
theorem witness_Caps : up.Inv ∧ shed.Inv ∧ Reaches .pf0 ⟨.pwrCapHost, 0, 0⟩ up ∧ up.mgmt = .pf0 ∧ (0 : Word).toNat < 300 ∧
    (2047 : Word).toNat < 2048 ∧ 1500 < (2047 : Word).toNat ∧ up.power.off = false ∧ up.flag F.pwrShedPin = false ∧
    shed.flag F.pwrShedPin = true := ⟨up_inv, inv_of _ (by decide +kernel), by decide +kernel⟩
/-- The I3C target has its address. -/
def addressed : State := { up with power := { up.power with i3cAddr := some 8 } }
theorem witness_Caps_i3c : addressed.Inv ∧ addressed.power.off = false ∧ addressed.power.i3cAddr.isSome = true ∧ up.power.i3cAddr = none ∧
    up.power.off = false := ⟨inv_of _ (by decide +kernel), by decide +kernel⟩
/-- The bounds of R423: 57.9, 58.0, 63.9, 64.5, 80.0, 80.1, 84.0 and 84.1 V. -/
def supplyFold : State := { up with power := { up.power with causes := [.supply] } }
theorem witness_Supply : asleep up = false ∧ up.power.causes = [] ∧ (580 ≤ 580 ∧ 639 < 640) ∧ asleep supplyFold = false ∧
    supplyFold.power.causes = [.supply] ∧ (645 ≤ 645 ∧ 800 ≤ 800) ∧ (∀ p < supplyFold.nParts, partCtl supplyFold F.pwrPartFoldReq p = 0) ∧ up.power.inputLoss = false ∧
    up.power.overvolt = false ∧ (800 < 801 ∧ 840 ≤ 840) ∧ up.deferred = [] ∧
    (579 < 580 ∧ 840 < 841 ∧ 841 < 1024) := by decide +kernel
theorem witness_Temperatures : asleep up = false ∧ up.power.causes = [] ∧ up.power.tripped = false ∧ up.deferred = [] := by decide +kernel
theorem witness_DroopOnlyCounted : up.power.droop.contains 3 = false ∧ 10 < 11 ∧ up.get F.dieDroopCfgThreshMv 3 < 50 ∧ asleep up = false := by decide +kernel
def moving : State := with_ [at_ F.dieOpStatusMoving 1] up
def gradColl (group : Nat) : Collective := { kind := .allreduce, mode := 0, group := group, gate := 5, src := 0, dst := 0, count := 64, grad := true }
def waiting : Coll := { seq := 0, c := gradColl 0, mode := 0, handoff := 0, e := 0, blks := [(0, { own := some [] })] }
def grazing : State := { with_ [at_ F.pwrPartGrazeEn 1, at_ F.fabTorusDimXMinus1 3] up with parts := [(0, { tally := { list := [waiting] } })], power := { up.power with partCtl := [(0, (with_ [at_ F.pwrPartGrazeEn 1] up).reg ⟨.pwrPart, 0, 0⟩ |>.toNat)] } }
def dutied : State := { up with power := { up.power with dutyOn := true } }
theorem dutied_inv : dutied.Inv := inv_of _ (by decide +kernel)
theorem witness_DiesAndFolding : moving.flag F.dieOpStatusMoving 0 = true ∧ asleep up = false ∧ tget up.power.ceilR 0 15 ≤ 15 ∧
    dieTasks up 0 = [] := by decide +kernel
theorem witness_DiesAndFolding_duty : dutied.Inv ∧ dutied.power.dutyOn = true ∧ asleep dutied = false ∧ Reaches .pf0 ⟨.pwrCtrl, 0, 0⟩ dutied ∧
    dutied.mgmt = .pf0 ∧ Reaches .pf0 ⟨.pwrPart, 0, 0⟩ dutied ∧ dutied.owns .pf0 0 = true ∧ haltIn dutied 0 = false ∧
    (dutied.part 0).faultPending = none ∧ abortOf dutied 0 = false ∧ dutied.power.causes = [] ∧ dutied.flag F.pwrPartFoldReq 0 = false :=
  ⟨dutied_inv, by decide +kernel⟩
/-- The greatest duty at which there is an off part; a partition that is folded on request. -/
def partDuty : State := with_ [at_ F.pwrFoldDuty 63] dutied
def folding : State := with_ [at_ F.pwrPartFoldReq 1] up
theorem witness_DiesAndFolding_off : partDuty.Inv ∧ partDuty.power.dutyOn = true ∧ asleep partDuty = false ∧ partDuty.get F.pwrFoldDuty < 64 :=
  ⟨inv_of _ (by decide +kernel), by decide +kernel⟩
theorem witness_DiesAndFolding_unfold : folding.Inv ∧ Reaches .pf0 ⟨.pwrPart, 0, 0⟩ folding ∧ folding.owns .pf0 0 = true ∧ asleep folding = false ∧
    haltIn folding 0 = false ∧ (folding.part 0).faultPending = none ∧ abortOf folding 0 = false ∧ folding.power.causes = [] ∧
    folding.flag F.pwrPartFoldReq 0 = true := ⟨inv_of _ (by decide +kernel), by decide +kernel⟩
theorem witness_DiesAndFolding_graze : grazing.partExists 0 = true ∧ partPower grazing 0 = 0 ∧ asleep grazing = false ∧
    partCtl grazing F.pwrPartGrazeEn 0 = 1 ∧ parked grazing 0 = true := by decide +kernel
theorem witness_ControlTick : asleep up = false ∧ up.power.off = false ∧ allFolded up = false ∧ up.flag F.pwrPartFoldReq 0 = false ∧
    up.power.causes = [] ∧ up.get F.pwrFoldFoldW ≤ (effLimit up).1 ∧ asleep folding = false ∧ folding.power.off = false ∧
    folding.flag F.pwrPartFoldReq 0 = true ∧ haltIn folding 0 = false ∧ (folding.part 0).faultPending = none ∧ abortOf folding 0 = false := by decide +kernel
/-- A code beside each supported command, and a write to a command that is read-only. -/
theorem witness_MeasurementAndSideband : up.power.off = false ∧ up.power.i3cAddr = none ∧ addressed.power.i3cAddr.isSome = true ∧
    addressed.power.off = false ∧ (0x04 : BitVec 8).toNat ∉ [0x03, 0x79, 0x88, 0x89, 0x8D, 0x97, 0x98, 0x99, 0x9A] ∧
    (0x79 : BitVec 8).toNat ≠ 0x03 := by decide +kernel

/-! ### Witnesses: start-up, security, debug, settings and mailboxes -/

def stage4 : State := with_ [at_ F.genStartupStage 4] State.reset
theorem witness_StartUp : asleep stage4 = false ∧ stage4.get F.genStartupStage = 4 ∧ (15 : Nat) < 16 ∧ State.reset.power.off = false ∧
    State.reset.sec.flash = none ∧ State.reset.sec.flashBad = false ∧ State.reset.sec.job = none ∧ State.reset.nvs.cells = [] ∧
    State.reset.nvs.job = none ∧ State.reset.get F.genStartupStage = 1 := by decide +kernel
def lastAbort : State := { aborting with power := { aborting.power with standbyPending := true } }
def sleeping : State := with_ [at_ F.pwrStateModule 4] up
theorem witness_StandbyAndWake : Reaches .pf0 ⟨.pwrCmd, 0, 0⟩ up ∧ up.mgmt = .pf0 ∧ asleep up = false ∧ up.power.standbyPending = false ∧
    abortReady lastAbort .pf0 = true ∧ lastAbort.deferred = [] ∧ lastAbort.power.standbyPending = true ∧
    lastAbort.flag F.hostAbortStatusBusy 1 = false ∧ lastAbort.flag F.nvsCmdStatusBusy = false ∧ lastAbort.sec.job = none := by decide +kernel
theorem witness_StandbyAndWake_wake : Reaches .pf0 ⟨.pwrCmd, 0, 0⟩ sleeping ∧ sleeping.mgmt = .pf0 ∧ sleeping.get F.pwrStateModule = 4 ∧
    sleeping.power.inputLow = false ∧ sleeping.power.inputHigh = false ∧ sleeping.nvs.factory.entries = [] ∧ sleeping.nvs.user.entries = [] ∧ sleeping.power.causes = [] ∧
    ∀ p : PartIx, partCtl sleeping F.pwrPartFoldReq p = 0 := by decide +kernel
def recovery : State := with_ [at_ F.secLifecycleRecovery 1] up
def flashing : State := { up with sec := { up.sec with job := some { image := [(0, 1)], recovery := false } } }
/-- The last 8 bytes of the window. -/
theorem witness_FirmwareImage : busAlive up .pf0 = true ∧ 0xFFF8 % 8 = 0 ∧ 0xFFF8 + 8 ≤ 0x10000 ∧ up.mgmt = .pf0 ∧
    up.flag F.secLifecycleRecovery = false ∧ (up.sec.stage.Pairwise fun x y => x.1 < y.1) ∧ up.flag F.secCmdStatusBusy = false ∧
    up.sec.restarting = false ∧ busAlive flashing .pf0 = true ∧ flashing.sec.job = some { image := [(0, 1)], recovery := false } ∧
    flashing.power.standbyPending = false := by decide +kernel
theorem witness_FirmwareImage_recovery : busAlive recovery .pf1 = true ∧ recovery.flag F.secLifecycleRecovery = true ∧ recovery.sec.holder = none ∧
    recovery.flag F.secCmdStatusBusy = false ∧ recovery.sec.restarting = false := by decide +kernel
def burning (n : Nat) : State := { up with sec := { up.sec with work := some n } }
theorem witness_LifecycleCommands : Reaches .pf0 ⟨.secCmd, 0, 0⟩ up ∧ up.mgmt = .pf0 ∧ up.flag F.secLifecycleRecovery = false ∧
    up.flag F.secCmdStatusBusy = false ∧ up.sec.restarting = false := by decide +kernel
theorem witness_LifecycleCommands_end : (burning 4).sec.work = some 4 ∧ (burning 4).power.off = false ∧ (burning 4).power.standbyPending = false ∧
    (burning 4).flag F.hostAbortStatusBusy 0 = false ∧ (burning 4).flag F.hostAbortStatusBusy 1 = false ∧
    (burning 4).flag F.nvsCmdStatusBusy = false := by decide +kernel
theorem witness_LifecycleCommands_owner : (burning 3).sec.work = some 3 ∧ (ownerRecord (burning 3).nvs (burning 3).sec.workKey).isSome = true ∧
    (ownerRecord { factory := { next := regionSlots } } []).isNone = true := by decide +kernel
def evaluating : State := { up with sec := { up.sec with evaluating := true } }
theorem witness_DebugLevels : up.power.off = false ∧ Reaches .pf0 ⟨.dbgCtrl, 0, 0⟩ up ∧ up.mgmt = .pf0 ∧ up.sec.evaluating = false ∧
    evaluating.power.off = false ∧ Reaches .pf0 ⟨.dbgCtrl, 0, 0⟩ evaluating ∧ evaluating.sec.evaluating = true ∧ tokenOpens evaluating = false ∧
    { up with sec := { up.sec with expiry := some 5 } }.sec.expiry.isSome = true ∧ up.get F.dbgLevelCur = 0 := by decide +kernel
def halted : State := { debugged with cores := [(143, { halted := true })] }
/-- D2 for partition 1 of two, and D3. -/
def debugged2 : State := with_ [at_ F.dbgLevelCur 2, at_ F.dbgLevelParts 2] split
theorem witness_DebugLevels_cores : Reaches .pf0 ⟨.dbgCoreCtrl, 3, 35⟩ debugged2 ∧ debugged2.owns .pf0 (debugged2.partOfCore 143) = true ∧
    asleep debugged2 = false ∧ debugged2.get F.dbgLevelCur = 2 ∧ (debugged2.get F.dbgLevelParts).testBit (debugged2.partOfCore 143) = true ∧
    folded debugged2 (debugged2.partOfCore 143) = false ∧ Reaches .pf0 ⟨.dbgCoreCtrl, 3, 35⟩ halted ∧
    halted.owns .pf0 (halted.partOfCore 143) = true ∧ asleep halted = false ∧ halted.get F.dbgLevelCur = 3 ∧ (halted.core 143).halted = true := by
  decide +kernel
/-- One staged record: of an address that the images carry, or of one that they do not. -/
def rec1 (a : Nat) : JRec := { kind := 1, addr := a, mask := 0xFF, value := 0x12 }
def stagedRec (a : Nat) : State := { up with nvs := { up.nvs with stage := (rec1 a).bytes } }
def readBack (a : Nat) : JRec := jrecRaw ((rec1 a).bytes)
/-- The store of that record: its writes and the journal after it. -/
def job1 : StoreJob := (storeJob (stagedRec 0x500004).nvs false [readBack 0x500004]).getD { factory := false, bank := 0, writes := [], after := {} }
def storing : State := { up with nvs := { up.nvs with job := some job1 } }
theorem witness_SettingsStore : Reaches .pf0 ⟨.nvsCmd, 0, 0⟩ (stagedRec 0x500004) ∧ (stagedRec 0x500004).mgmt = .pf0 ∧
    (stagedRec 0x500004).flag F.nvsCmdStatusBusy = false ∧ (stagedRec 0x500004).sec.restarting = false ∧ (stagedRec 0x500004).sec.fuseState = 0 ∧
    stagedFrom (stagedRec 0x500004).nvs.stage false ((stagedRec 0x500004).get F.nvsStageCtrlCountMinus1 + 1) 0 0 = .inr [readBack 0x500004] ∧
    storeJob (stagedRec 0x500004).nvs false [readBack 0x500004] = some job1 ∧
    ([readBack 0x500004].foldl entryApply (stagedRec 0x500004).nvs.user.entries).length ≤ 4096 ∧
    stagedFrom (stagedRec 4).nvs.stage false ((stagedRec 4).get F.nvsStageCtrlCountMinus1 + 1) 0 0 = .inl 0 ∧ (stagedRec 4).sec.fuseState = 0 ∧
    storing.nvs.job = some job1 ∧ storing.power.off = false ∧ storing.power.standbyPending = false := by decide +kernel
def retired : State := { up with sec := { up.sec with fuseState := 2 } }
theorem witness_SettingsStore_retired : Reaches .pf0 ⟨.nvsCmd, 0, 0⟩ retired ∧ retired.mgmt = .pf0 ∧ retired.flag F.nvsCmdStatusBusy = false ∧
    retired.sec.restarting = false ∧ retired.sec.fuseState = 2 := by decide +kernel

def sess (established : Bool) : Session := { f := .pf0, id := 1, established := established }
def inSession (established : Bool) : State := { up with sec := { up.sec with sessions := [sess established], nextSession := 2, ide := [(.pf0, 4, false)] } }
def secured : State := { with_ [at_ F.hostPortStatusIde 1] up with sec := { up.sec with ide := [(.pf0, 4, true)] } }
theorem witness_Mailbox : doeUp up .pf0 = true ∧ doeUp (inSession true) .pf0 = true ∧ session (inSession true) .pf0 1 = some (sess true) ∧
    (sess true).established = true ∧ (4 : Nat) ≤ 4 ∧ (.pf0, 4, false) ∈ (inSession true).sec.ide ∧ secured.power.off = false ∧
    secured.sec.ide = [(.pf0, 4, true)] ∧ (1 : Nat) ≠ 0 ∧ (1 ≤ 5 ∧ 5 ≤ 5) := by decide +kernel
/-- A stored run with one index left, a run used up, and a store of the next under way, with and without a response that waits. -/
def signer (next end_ : Nat) (w : List (Fn × SpdmWait)) (storing : Bool) : State :=
  { with_ [.reg ⟨.secLmsLeft, 0, 0⟩ 1000] (inSession false) with sec := { (inSession false).sec with lmsNext := next, lmsEnd := end_, waiting := w, lmsStoring := storing } }
theorem witness_SignedResponses : doeUp (signer 63 64 [] false) .pf0 = true ∧ (signer 63 64 [] false).sec.fuseState ≠ 2 ∧
    lmsEmpty (signer 63 64 [] false) = false ∧ (signer 63 64 [] false).sec.lmsNext < (signer 63 64 [] false).sec.lmsEnd ∧
    (signer 63 64 [] false).sec.waiting = [] ∧ sessionCount (signer 63 64 [] false) .pf0 < 4 ∧
    session (signer 63 64 [] false) .pf0 1 = some (sess false) ∧ (sess false).established = false := by decide +kernel
theorem witness_SignedResponses_store : doeUp (signer 64 64 [] true) .pf0 = true ∧ (signer 64 64 [] true).sec.fuseState ≠ 2 ∧
    lmsEmpty (signer 64 64 [] true) = false ∧ (signer 64 64 [] true).sec.lmsEnd ≤ (signer 64 64 [] true).sec.lmsNext ∧
    (signer 64 64 [] true).sec.lmsStoring = true ∧ (signer 64 64 [] true).sec.lmsEnd + 64 < lmsTotal ∧ (signer 64 64 [] true).sec.waiting = [] ∧
    doeUp (signer 64 64 [(.pf0, .challenge [1])] true) .pf0 = true ∧ lmsEmpty (signer 64 64 [(.pf0, .challenge [1])] true) = false ∧
    (signer 64 64 [(.pf0, .challenge [1])] true).sec.waiting = [(.pf0, .challenge [1])] := by decide +kernel

/-! ### Witnesses: instructions of the cores -/

/-- A block at 0x1000 that core 0 executes, in a task of partition 0 with the tiers' first bytes as its region. -/
def block (is : List HInstr) (s : State) : State := put 0x1000 (is.flatMap fun i => bytesOf 16 (encodeWord i)) s
def region0 : Region := { start := 0x200000, len := 0x800000, kind := 2, va := false }
def desc0 (mask : List Nat) (nr : Bool) : TaskDesc :=
  { block := 0x1000, bva := false, mask := mask, phase := 0, statGroup := 0, nonReplayable := nr, cpl := false, irq := false, waits := [], signal := none,
    regions := 0, rva := false, regionCount := 0 }
def task0 : Task := { id := 7, p := 0, q := 0, index := 0, desc := desc0 [0] false, regions := [region0], ctx := 0, dispatchTime := 0, started := [0] }
def running (is : List HInstr) (t : Task) (x : Ctx) : State :=
  { block is up with tasks := [t], cores := [(0, { ctxs := [(0, { x with task := some t.id })] })], nextId := 20 }
def whoOn (c : Nat) (s : State) : Who := { p := s.partOfCore c, core := c, ctx := (s.core c).running, ps := pasidKey s (s.partOfCore c) 0 }
abbrev who0 : State → Who := whoOn 0
def prog (is : List HInstr) : State := running is task0 {}

/-- A result that is a given value. -/
def okIs {e a : Type} [DecidableEq a] (r : Except e a) (x : a) : Bool :=
  match r with
  | .ok y => decide (y = x)
  | .error _ => false
theorem ok_of {e a : Type} [DecidableEq a] {r : Except e a} {x : a} (h : okIs r x = true) : r = .ok x := by
  unfold okIs at h; split at h <;> simp_all

/-- A word in memory as the next instruction of a core. -/
theorem next_of (op c : Nat) (s : State) (i : HInstr) (t : Task) (h : canRun s c (s.core c).running = some t ∧ t.q = 0 ∧
    okIs (fetchWord s (whoOn c s) t) (encodeWord i) = true ∧ opcodeOf (encodeWord i) = op ∧ decodeWord (encodeWord i) = some i) :
    NextInstr op c s i t (whoOn c s) :=
  ⟨h.1, by rw [h.2.1]; rfl, _, ok_of h.2.2.1, h.2.2.2.1, h.2.2.2.2⟩

theorem witness_WordRoundTrip : (HInstr.fill .e2m1 (.loc 0x3FFFF) 15 0x1FFFFF).wf = true := by decide +kernel
/-- A NOP with a reserved bit set. -/
def badWord : State := put 0x1000 (bytesOf 16 (2 ^ 120 + 1)) (prog [])
theorem witness_InvalidWordFaults : fetchWord badWord (who0 badWord) task0 = .ok (2 ^ 120 + 1) ∧
    canRun badWord 0 (badWord.core 0).running = some task0 ∧ decodeWord (2 ^ 120 + 1) = none ∧
    opcodeOf (2 ^ 120 + 1) = 0x01 ∧ task0.desc.nonReplayable = false := ⟨ok_of (by decide +kernel), by decide +kernel⟩
theorem witness_ControlInstructions_nop : NextInstr 0x01 0 (prog [.nop]) .nop task0 (who0 (prog [.nop])) := next_of _ _ _ _ _ (by decide +kernel)
/-- A body of the greatest length and count. -/
theorem witness_ControlInstructions_loop : NextInstr 0x03 0 (prog [.loop 255 65535]) (.loop 255 65535) task0 (who0 (prog [.loop 255 65535])) ∧
    (((prog [.loop 255 65535]).core 0).ctx 0).loops.length < 4 ∧ (((prog [.loop 255 65535]).core 0).ctx 0).loops.head? = none :=
  ⟨next_of _ _ _ _ _ (by decide +kernel), by decide +kernel⟩
theorem witness_ControlInstructions_end : NextInstr 0x02 0 (prog [.endOp]) .endOp task0 (who0 (prog [.endOp])) ∧
    (((prog [.endOp]).core 0).ctx 0).loops = [] ∧ (∀ g ∈ ((prog [.endOp]).core 0).groups, g.task ≠ 7) ∧
    barrierAhead (prog [.endOp]) task0 0 = false := ⟨next_of _ _ _ _ _ (by decide +kernel), by decide +kernel⟩
/-- A gate that has just reached its value, and one that lacks 1. -/
theorem witness_ControlInstructions_wait : NextInstr 0x60 0 (prog [.wait 4095 0]) (.wait 4095 0) task0 (who0 (prog [.wait 4095 0])) ∧
    gateOk (prog [.wait 4095 0]) 0 4095 = true ∧ (prog [.wait 4095 0]).gateHolds 4095 0 = true ∧
    NextInstr 0x60 0 (prog [.wait 5 1]) (.wait 5 1) task0 (who0 (prog [.wait 5 1])) ∧ gateOk (prog [.wait 5 1]) 0 5 = true ∧
    (prog [.wait 5 1]).gateHolds 5 1 = false := ⟨next_of _ _ _ _ _ (by decide +kernel), by decide +kernel, by decide +kernel, next_of _ _ _ _ _ (by decide +kernel), by decide +kernel⟩
theorem witness_ControlInstructions_signal : NextInstr 0x61 0 (prog [.signal 4095 65535]) (.signal 4095 65535) task0 (who0 (prog [.signal 4095 65535])) ∧
    gateOk (prog [.signal 4095 65535]) 0 4095 = true := ⟨next_of _ _ _ _ _ (by decide +kernel), by decide +kernel⟩
theorem witness_ControlInstructions_barrier : NextInstr 0x62 0 (prog [.barrier 255]) (.barrier 255) task0 (who0 (prog [.barrier 255])) ∧
    ∀ r ∈ task0.retired, 0 + 1 ≤ r.2 := ⟨next_of _ _ _ _ _ (by decide +kernel), by decide +kernel⟩
def gated : State := with_ [at_ F.hostGateValue 3 5] (running [.wait 5 3] task0 { wait := .gate 5 3 })
def barred : State := running [.barrier 2] task0 { wait := .barrier 2, barriers := 1 }
theorem witness_ControlInstructions_release : ((gated.core 0).ctx 0).wait = .gate 5 3 ∧ gated.gateHolds 5 3 = true ∧
    barred.task 7 = some task0 ∧ task0.desc.mask ≠ [] ∧ task0.desc.mask.Nodup ∧ (∀ c ∈ task0.desc.mask, ((barred.core c).ctxs.map (·.1)).Nodup) ∧
    (taskCtxs barred task0).length = task0.desc.mask.length ∧ (∀ e ∈ taskCtxs barred task0, e.2.2.wait = .barrier 2 ∧ e.2.2.barriers = 1) := by decide +kernel

def fp32s (l : List Nat) : List Byte := l.flatMap (bytesOf 4)
/-- Words in core 0's local memory at unit 0: 1, 2, -3, 0.5; at unit 16: 2, 1, 5, 0; at unit 32: 0, 0, 1, 1. -/
def data (is : List HInstr) : State := put (localBase 0) (fp32s [0x3F800000, 0x40000000, 0xC0400000, 0x3F000000])
  (put (localBase 0 + 128) (fp32s [0x40000000, 0x3F800000, 0x40A00000, 0]) (put (localBase 0 + 256) (fp32s [0, 0, 1, 1]) (prog is)))
def el (n : Nat) : DElem := { bits := n, src := Fmt.fp32.decode n }
/-- The last record of partition 0 and the last destination unit of a snapshot. -/
def statR : HInstr := .statRead 4095 0 false 0x200000
def statS : HInstr := .statSnap (Opd.loc 0x37FF0).encode
theorem witness_LocalMemory_statRead : (prog [statR]).Inv ∧ NextInstr 0x70 0 (prog [statR]) statR task0 (who0 (prog [statR])) ∧
    4095 + 0 + 1 ≤ 4096 / (prog [statR]).nParts ∧ (prog [statR]).stores = [] ∧ task0.desc.lane 0 = 0 ∧
    covered task0.regions false (0x200000, 64, true) = true ∧
    writeRange (prog [statR]) 0 (who0 (prog [statR])).ps false 0x200000 false ((prog [statR]).tstatRec 4095) =
      .inl [(0x200000, (prog [statR]).tstatRec 4095)] :=
  ⟨inv_of _ (by decide +kernel), next_of _ _ _ _ _ (by decide +kernel), by decide +kernel⟩
/-- A task on cores 0 and 1, of which core 1 is lane 1. -/
def lanes : Task := { task0 with desc := desc0 [0, 1] false, started := [0, 1] }
def onCore1 (is : List HInstr) : State := { running is lanes {} with cores := [(1, { ctxs := [(0, { task := some 7 })] })] }
theorem witness_LocalMemory_lane : NextInstr 0x70 1 (onCore1 [statR]) statR lanes (whoOn 1 (onCore1 [statR])) ∧ lanes.desc.lane 1 ≠ 0 :=
  ⟨next_of _ _ _ _ _ (by decide +kernel), by decide +kernel⟩
theorem witness_LocalMemory_snap : (prog [statS]).Inv ∧ NextInstr 0x71 0 (prog [statS]) statS task0 (who0 (prog [statS])) ∧
    Opd.decode (Opd.loc 0x37FF0).encode = some (.loc 0x37FF0) ∧ (∀ g ∈ ((prog [statS]).core 0).groups, g.task ≠ task0.id) ∧
    8 * 0x37FF0 + 128 ≤ (prog [statS]).stageStart 0 ∧ (prog [statS]).poisonIn (localBase 0 + 8 * 0x37FF0) 128 = none :=
  ⟨inv_of _ (by decide +kernel), next_of _ _ _ _ _ (by decide +kernel), by decide +kernel⟩
/-- The last 8 bytes before the staging area. -/
def fillI : HInstr := .fill .int8 (.loc 0x37FFF) 0xFF 7
def moveI : HInstr := .move .fp32 .bf16 false false false (.loc 64) (.loc 0) 3
def moved : List DElem := [el 0x3F800000, el 0x40000000, el 0xC0400000, el 0x3F000000]
theorem witness_LocalMemory_fill : (prog [fillI]).Inv ∧ (prog [fillI]).mem.poison = [] ∧ (7 + 1) * Fmt.int8.bits % 8 = 0 ∧
    NextInstr 0x41 0 (prog [fillI]) fillI task0 (who0 (prog [fillI])) ∧ 8 * 0x37FFF + (7 + 1) * Fmt.int8.bits / 8 ≤ (prog [fillI]).stageStart 0 :=
  ⟨inv_of _ (by decide +kernel), by decide +kernel, by decide +kernel, next_of _ _ _ _ _ (by decide +kernel), by decide +kernel⟩
theorem witness_LocalMemory_move : (data [moveI]).Inv ∧ (data [moveI]).mem.poison = [] ∧ (3 + 1) * Fmt.bf16.bits % 8 = 0 ∧
    NextInstr 0x40 0 (data [moveI]) moveI task0 (who0 (data [moveI])) ∧
    readOpd (data [moveI]) (who0 (data [moveI])) (.loc 0) .fp32 (3 + 1) = .ok moved ∧
    (moveRun false moveI task0 (who0 (data [moveI])) (data [moveI])).2.isNone = true :=
  ⟨inv_of _ (by decide +kernel), by decide +kernel, by decide +kernel, next_of _ _ _ _ _ (by decide +kernel), ok_of (by decide +kernel), by decide +kernel⟩

/-- Vector operations over the data: destination unit 64. -/
def vop (k : VecKind) (func : Nat) (f : Fmt) (d a b c : Opd) (param n : Nat) : VecOp :=
  { kind := k, func := func, sfmt := f, dfmt := f, ovf := false, sat := false, bscal := false, dst := d, a := a, b := b, c := c, param := param, countM1 := n }
def vbinO : VecOp := vop .vbin 0 .fp32 (.loc 64) (.loc 0) (.loc 16) .none 0 3
def vunO : VecOp := vop .vun 1 .fp32 (.loc 64) (.loc 0) .none .none 0 3
def vfmaO : VecOp := vop .vfma 0 .fp32 (.loc 64) (.loc 0) (.loc 16) (.loc 0) 0 3
def vredO : VecOp := vop .vred 0 .fp32 (.loc 64) (.loc 0) .none .none 0 3
def vsegO : VecOp := vop .vseg 0 .fp32 (.loc 64) (.loc 0) (.loc 32) .none 0 3
def vscatO : VecOp := vop .vscatadd 0 .fp32 (.loc 16) (.loc 0) (.loc 33) .none 0 0
def vtopkO : VecOp := vop .vtopk 0 .fp32 (.loc 64) (.loc 0) .none .none 1 3
def vsortO : VecOp := vop .vsort 0 .uint32 .none (.loc 0) .none .none 0 3
def vhistO : VecOp := vop .vhist 0 .uint32 (.loc 64) (.loc 32) .none .none 3 3
def vst (o : VecOp) : State := data [.vec o]
theorem vec_of (o : VecOp) (h : canRun (vst o) 0 ((vst o).core 0).running = some task0 ∧ task0.q = 0 ∧
    okIs (fetchWord (vst o) (who0 (vst o)) task0) (encodeWord (.vec o)) = true ∧ opcodeOf (encodeWord (.vec o)) = o.kind.opcode ∧
    decodeWord (encodeWord (.vec o)) = some (.vec o)) (g : (vecRun o task0 (who0 (vst o)) (vst o)).2.isNone = true)
    (i : (vst o).mem.wf ∧ reservedZero (vst o).regs ∧ reservedZero (vst o).staged ∧ listedOnce (vst o).regs ∧ listedOnce (vst o).staged) :
    (vst o).Inv ∧ NextInstr o.kind.opcode 0 (vst o) (.vec o) task0 (who0 (vst o)) ∧ (vecRun o task0 (who0 (vst o)) (vst o)).2 = none :=
  ⟨inv_of _ i, next_of _ _ _ _ _ h, Option.isNone_iff_eq_none.mp g⟩
theorem witness_VectorFrame (o : VecOp) (h : o ∈ [vbinO, vunO, vfmaO, vredO, vsegO, vscatO, vtopkO, vsortO, vhistO]) :
    (vst o).Inv ∧ NextInstr o.kind.opcode 0 (vst o) (.vec o) task0 (who0 (vst o)) ∧ (vecRun o task0 (who0 (vst o)) (vst o)).2 = none := by
  simp only [List.mem_cons, List.not_mem_nil, or_false] at h
  rcases h with rfl | rfl | rfl | rfl | rfl | rfl | rfl | rfl | rfl <;>
    exact vec_of _ (by decide +kernel) (by decide +kernel) (by decide +kernel)

/-- A VUN and a MOVE that read tile buffer A. -/
def vunT : VecOp := vop .vun 1 .fp32 (.loc 64) (.tile .bufA 0) .none .none 0 3
def moveT : HInstr := .move .fp32 .bf16 false false false (.loc 64) (.tile .bufA 0) 3
theorem witness_VectorFrame_tile : NextInstr vunT.kind.opcode 0 (vst vunT) (.vec vunT) task0 (who0 (vst vunT)) ∧ vunT.kind ≠ .vsort ∧
    vunT.readsTile = true ∧ task0.desc.nonReplayable = false ∧ NextInstr 0x40 0 (data [moveT]) moveT task0 (who0 (data [moveT])) :=
  ⟨next_of _ _ _ _ _ (by decide +kernel), by decide +kernel, by decide +kernel, by decide +kernel, next_of _ _ _ _ _ (by decide +kernel)⟩
theorem test_tile_error : (run (vunAct 0 true) (vst vunT)).log.map (·.code) = [0x1102, 0x1003] := by decide +kernel

def ids4 : List DElem := [0, 0, 1, 1].map fun n => { bits := n, src := Fmt.uint32.decode n }
def added : List DElem := [el 0x40000000, el 0x3F800000, el 0x40A00000, el 0]
/-- The sources of a vector operation, in the order in which it reads them. -/
def srcs (o : VecOp) : Except Stop (List (List DElem)) :=
  (withOffsets [] o.sources).mapM (fun e => readOpd (vst o) (who0 (vst o)) e.1.1 e.1.2.1 e.1.2.2 e.2)
theorem witness_VectorResults : srcs vbinO = .ok [moved, added] ∧ srcs vunO = .ok [moved] ∧ srcs vfmaO = .ok [moved, added, moved] ∧
    srcs vredO = .ok [moved] ∧ srcs vsegO = .ok [moved, ids4] ∧ srcs vhistO = .ok [ids4, []] ∧ (vst vbinO).mem.poison = [] :=
  ⟨ok_of (by decide +kernel), ok_of (by decide +kernel), ok_of (by decide +kernel), ok_of (by decide +kernel), ok_of (by decide +kernel),
    ok_of (by decide +kernel), by decide +kernel⟩
theorem witness_VectorResults_lists : readOpd (vst vtopkO) (who0 (vst vtopkO)) vtopkO.a vtopkO.sfmt vtopkO.srcElems = .ok moved ∧
    localElems (vst vsortO) 0 (8 * 0) vsortO.sfmt vsortO.count = .ok [0x3F800000, 0x40000000, 0xC0400000, 0x3F000000] ∧
    srcs vscatO = .ok [[el 0x3F800000], [{ bits := 1, src := Fmt.uint32.decode 1 }]] ∧
    localElems (vst vscatO) 0 (8 * 16 + 1 * (Fmt.fp32.bits / 8)) .fp32 1 = .ok [0x3F800000] ∧ vscatO.count = 1 ∧ vscatO.rowElems = 1 ∧ 1 ≠ noIndex :=
  ⟨ok_of (by decide +kernel), ok_of (by decide +kernel), ok_of (by decide +kernel), ok_of (by decide +kernel), by decide +kernel⟩

/-- A linear descriptor of n elements at a location, and its stream. -/
def lin (store : Bool) (f : Fmt) (base n m : Nat) : Desc :=
  { store := store, memFmt := f, coreFmt := f, scaled := false, scaleSrc := 0, blockDim := 0, tensorId := 0, stat := false, ovf := false, sat := false,
    tiled := false, va := false, persist := true, offload := false, mcast := false, faultEarly := false, cscaled := false, base := base, scaleBase := 0,
    body := .linear [n, m, 1, 1, 1] [n * f.bits / 8, 0, 0, 0] }
def strm (d : Desc) : Machine.Stream := { addr := 0x8000, desc := d, boundBy := 7, owner := 7, ready := true }
/-- The 64 bytes of that descriptor (R151). -/
def linBytes (f base n m : Nat) (bits : Nat) : List Byte :=
  bytesOf 64 (16 * f + 256 * f + 2 ^ 33 + 2 ^ 64 * base + 2 ^ 192 * (n + 2 ^ 32 * m + 2 ^ 64 + 2 ^ 96 + 2 ^ 128) + 2 ^ 352 * (n * bits / 8))
def withStreams (l : List ((Nat × Nat) × Machine.Stream)) (s : State) : State := { s with cores := [(0, { s.core 0 with streams := l })] }
def bindI : HInstr := .desc .bind 15 0 false false 0x8000
def bindS : State := put 0x8000 (linBytes Fmt.bf16.code 0x210000 64 16 16) (prog [bindI])
def unbindS : State := withStreams [((0, 3), strm (lin false .bf16 0x210000 64 16))] (prog [.unbind 3 false])
def rearmI : HInstr := .rearm 3 0 true 0x40
def rearmS : State := withStreams [((0, 3), strm (lin false .bf16 0x210000 64 16))] (prog [rearmI])
theorem witness_StreamInstructions : NextInstr 0x30 0 bindS bindI task0 (who0 bindS) ∧ 15 < 16 / bindS.ctxCount 0 ∧
    (bindS.core 0).anyStream 0 15 = none ∧ okIs (bindDesc bindS (who0 bindS) task0 false (descAddr task0 (who0 bindS) false 0x8000)) (lin false .bf16 0x210000 64 16) = true ∧
    NextInstr 0x31 0 unbindS (.unbind 3 false) task0 (who0 unbindS) ∧ NextInstr 0x32 0 rearmS rearmI task0 (who0 rearmS) ∧
    (rearmS.core 0).stream 0 3 = some (strm (lin false .bf16 0x210000 64 16)) ∧
    (lin false .bf16 0x210000 64 16).persist = true ∧ (lin false .bf16 0x210000 64 16).rearm 0 true 0x40 = some (lin false .bf16 0x210040 64 16) :=
  ⟨next_of _ _ _ _ _ (by decide +kernel), by decide +kernel, by decide +kernel, by decide +kernel, next_of _ _ _ _ _ (by decide +kernel),
    next_of _ _ _ _ _ (by decide +kernel), by decide +kernel⟩

/-- Collectives of an instruction: STEP_CLOSE, and an ALLREDUCE of 64 elements in device space. -/
def closeI : HInstr := .reduce .stepClose 0 4 5 0
def reduceI : HInstr := .reduce .allreduce 0 4 5 0x8000
def vaTask (mask : List Nat) : Task := { task0 with desc := desc0 mask false, started := mask, regions := [{ region0 with va := true }] }
def reduceS : State := put 0x8000 (bytesOf 64 (0x210000 + 2 ^ 64 * 0x220000 + 2 ^ 128 * 64 + 2 ^ 200 * 5)) (leaf (running [reduceI] (vaTask [0]) {}))
def reduceD : Collective := (parseColl .allreduce 0 4 5 (bytesOf 64 (0x210000 + 2 ^ 64 * 0x220000 + 2 ^ 128 * 64 + 2 ^ 200 * 5))).getD (gradColl 0)
theorem witness_ReduceInstructions : NextInstr 0x54 0 (prog [closeI]) closeI task0 (who0 (prog [closeI])) ∧ gateOk (prog [closeI]) 0 5 = true ∧
    task0.desc.lane 0 = 0 ∧ shadowMapBad (prog [closeI]) 0 = false ∧
    NextInstr 0x54 1 (onCore1 [closeI]) closeI lanes (whoOn 1 (onCore1 [closeI])) ∧ lanes.desc.lane 1 ≠ 0 ∧
    NextInstr 0x50 0 reduceS reduceI (vaTask [0]) (who0 reduceS) ∧ gateOk reduceS 0 5 = true ∧ shadowMapBad reduceS 0 = false ∧
    readRange reduceS 0 (who0 reduceS).ps 0 true 0x8000 64 = .ok (bytesOf 64 (0x210000 + 2 ^ 64 * 0x220000 + 2 ^ 128 * 64 + 2 ^ 200 * 5)) ∧
    parseColl .allreduce 0 4 5 (bytesOf 64 (0x210000 + 2 ^ 64 * 0x220000 + 2 ^ 128 * 64 + 2 ^ 200 * 5)) = some reduceD ∧
    okIs (collCheck reduceS 0 (vaTask [0]) reduceD) () = true :=
  ⟨next_of _ _ _ _ _ (by decide +kernel), by decide +kernel, by decide +kernel, by decide +kernel, next_of _ _ _ _ _ (by decide +kernel), by decide +kernel,
    next_of _ _ _ _ _ (by decide +kernel), by decide +kernel⟩

/-- An UPDATE of n SGD elements with no companion of its own in memory, the objects in a basted range of 2 MiB. -/
def updateI : HInstr := .desc .update 0 1 false true 0x8000
def readTask : Task := { vaTask [0] with regions := [{ region0 with va := true, kind := 0 }] }
def updateBytes (n : Nat) : List Byte := bytesOf 64 (3 + 2 ^ 32 * n + 2 ^ 128 * 0x400000 + 2 ^ 192 * 0x210000 + 2 ^ 256 * 0x400100 + 2 ^ 384 * 0x220000)
def updateS (n : Nat) : State := put 0x210000 (fp32s [0x3F800000, 0xBF000000, 0x3E000000, 0x40000000])
  (put 0x8000 (updateBytes n)
    (with_ [at_ F.hostTrainBasteSizeSizeLog2 21, at_ F.hostTrainBasteBaseBase 2] (leaf (running [updateI] readTask {}))))
/-- A SAMPLE of one seed from a graph of four nodes, and its request at the Drover. -/
def sampleI : HInstr := .desc .sample 0 0 false false 0x8000
def sampleBytes : List Byte := bytesOf 64 (4 + 256 + 2 ^ 32 * 65536 * 5 + 2 ^ 64 * 0x210000 + 2 ^ 128 * 0x211000 + 2 ^ 256 * 0x212000 + 2 ^ 320 * 0x213000 + 2 ^ 384 * (8 + 2 ^ 40 * 3) + 2 ^ 448 * 4)
def graph (s : State) : State := put 0x210000 (fp32s [0, 2, 4, 6, 8]) (put 0x211000 (fp32s [1, 2, 3, 0, 1, 2, 3, 0]) (put 0x212000 (fp32s [2]) (put 0x8000 sampleBytes s)))
def sampleS : State := graph (prog [sampleI])
def request : Nat × Nat × Nat × List Byte := (0, 0, 7, sampleBytes)
def drover (active : Bool) : State := { graph (running [sampleI] task0 { wait := .drover }) with dies := [(0, { drover := [request], active := active })] }
def sampler : Option Sampler := parseSampler sampleBytes
theorem witness_UpdateAndSample_update : NextInstr 0x29 0 (updateS 4) updateI readTask (who0 (updateS 4)) ∧
    (updateRun updateI readTask (who0 (updateS 4)) (updateS 4)).2.isNone = true := ⟨next_of _ _ _ _ _ (by decide +kernel), by decide +kernel⟩
/-- One element whose gradient is 1, whose moment and weight are 0. -/
def oneDesc : UpdDesc := (parseUpdate (updateBytes 1)).getD ⟨0, false, 0, 0, 0, 0, 0, 0, 0⟩
theorem witness_UpdateAndSample_one : NextInstr 0x29 0 (updateS 1) updateI readTask (who0 (updateS 1)) ∧
    (updateRun updateI readTask (who0 (updateS 1)) (updateS 1)).2.isNone = true ∧ parseUpdate (updateBytes 1) = some oneDesc ∧ oneDesc.count = 1 ∧
    okIs (deviceNums (updateS 1) (who0 (updateS 1)) oneDesc.hp 4 8) (List.replicate 8 0) = true ∧
    okIs (deviceNums (updateS 1) (who0 (updateS 1)) oneDesc.g 4 1) [0x3F800000] = true ∧
    okIs (deviceNums (updateS 1) (who0 (updateS 1)) oneDesc.st 4 1) [0] = true ∧ Companion.ofCode 1 ≠ .master32 ∧ Companion.ofCode 1 ≠ .lined ∧
    okIs (deviceNums (updateS 1) (who0 (updateS 1)) oneDesc.w 2 1) [0] = true ∧
    (writeRange (updateS 1) 0 (who0 (updateS 1)).ps true oneDesc.w true
      (bytesOf 2 (updElem (updEnv (updateS 1) 0 oneDesc false (Companion.ofCode 1) (List.replicate 8 0)) oneDesc.elemBase 0 0 0x3F800000 0 0).1)).isLeft = true :=
  ⟨next_of _ _ _ _ _ (by decide +kernel), by decide +kernel⟩
theorem witness_UpdateAndSample_sample : NextInstr 0x33 0 sampleS sampleI task0 (who0 sampleS) ∧
    (∀ r ∈ (sampleS.die (dieOfCore 0)).drover, r.1 ≠ 0) ∧
    readRange sampleS 0 (who0 sampleS).ps 0 false (descAddr task0 (who0 sampleS) false 0x8000) 64 = .ok sampleBytes ∧ sampler.isSome = true ∧
    sampler.any (fun m => decide (m.tensorId < tensorsOf sampleS) && m.extents.all (covered task0.regions m.va)) = true :=
  ⟨next_of _ _ _ _ _ (by decide +kernel), by decide +kernel⟩
theorem witness_UpdateAndSample_drover : (drover false).powerOk ((drover false).partOfDie 0) = true ∧
    ((drover false).part ((drover false).partOfDie 0)).draining = false ∧ ((drover false).die 0).active = false ∧ ((drover false).die 0).drover ≠ [] ∧
    (drover true).powerOk ((drover true).partOfDie 0) = true ∧ ((drover true).part ((drover true).partOfDie 0)).draining = false ∧
    ((drover true).die 0).active = true ∧ ((drover true).die 0).drover = [request] ∧ (drover true).task 7 = some task0 ∧
    task0.p = (drover true).partOfDie 0 ∧
    sampler.any (fun m => (droverRun (who0 (drover true)) 7 0 m (drawsOf (drover true) 0 m) (drover true)).2.isNone) = true := by decide +kernel

/-! ### Witnesses: matrix passes, streams and tasks -/

def passO (sc : Scope) : MpassOp :=
  { fmt := if sc = .off then .bf16 else .e2m1, scaled := decide (sc ≠ .off), semi := .mulAdd, add := false, buf := .bufA, sat := false, tw := false, ta := false,
    scope := sc, mM1 := 0, wSlot := 0, aSlot := 1 }
def wS : Machine.Stream := strm (lin false .bf16 0x210000 64 16)
def aS : Machine.Stream := strm (lin false .bf16 0x220000 16 1)
def passS : State := withStreams [((0, 0), wS), ((0, 1), aS)] (prog [.mpass (passO .off)])
/-- An operand of a pass whose n bytes of zeros are staged. -/
def inStage (base n : Nat) (st : Machine.Stream) : Machine.Stream :=
  { st.forPass with staged := (List.range ((n + 255) / 256)).map fun k => (base + 256 * k, List.replicate (min 256 (n - 256 * k)) 0) }
def wP : Machine.Stream := inStage 0x210000 2048 wS
def aP : Machine.Stream := inStage 0x220000 32 aS
def grp (sc : Scope) : PassGroup := { id := 9, task := 7, ctx := 0, op := passO sc, w := wP, a := aP, verdict := if sc = .off then none else some true, outW := decide (sc ≠ .off) }
/-- A pass that is filled, one whose weights are in, and one whose single row is in. -/
def unit0 (ws : Option (List DElem)) (rows : Nat) : PassUnit := { group := 9, sub := 0, fmt := .bf16, scaled := false, add := false, weights := ws, rows := rows }
def withPass (sc : Scope) (u : PassUnit) (t : Task) : State :=
  { running [.endOp] t {} with cores := [(0, { ctxs := [(0, { task := some 7 })], groups := [grp sc], units := [u] })] }
def zeros (f : Fmt) (n : Nat) : List DElem := List.replicate n { src := f.decode 0 }
theorem witness_MatrixPass : NextInstr 0x10 0 passS (.mpass (passO .off)) task0 (who0 passS) ∧
    okIs (passCheck passS (who0 passS) (passO .off)) (wS.forPass, aS.forPass) = true :=
  ⟨next_of _ _ _ _ _ (by decide +kernel), by decide +kernel⟩
def rowS : State := withPass .off (unit0 (some []) 0) task0
theorem witness_MatrixPass_row : (rowS.part (rowS.partOfCore 0)).draining = false ∧ rowS.coreOk 0 = true ∧
    nextRows (rowS.core 0) = some (unit0 (some []) 0) ∧ groupOf (rowS.core 0) (unit0 (some []) 0) = some (grp .off) ∧ (grp .off).op.scope = .off ∧
    (grp .off).verdict = none ∧ rowBlocked (rowS.core 0) (grp .off) = false ∧ (grp .off).hazard (rowS.core 0) = false ∧
    okIs (passElems rowS (groupWho rowS 0 (grp .off)) (grp .off) aP ((unit0 (some []) 0).aIxs (grp .off))) (zeros .bf16 16) = true ∧
    (passDelivered (groupWho rowS 0 (grp .off)) (grp .off) 1 aP ((unit0 (some []) 0).aIxs (grp .off)) (zeros .bf16 16) rowS).2.isNone = true := by
  decide +kernel
def fillS : State := withPass .off (unit0 none 0) task0
theorem witness_MatrixPass_fill : (fillS.part (fillS.partOfCore 0)).draining = false ∧ fillS.coreOk 0 = true ∧
    nextFill (fillS.core 0).units true = some (unit0 none 0) ∧ groupOf (fillS.core 0) (unit0 none 0) = some (grp .off) ∧
    (grp .off).hazard (fillS.core 0) = false ∧
    okIs (passElems fillS (groupWho fillS 0 (grp .off)) (grp .off) wP ((unit0 none 0).wIxs (grp .off))) (zeros .bf16 1024) = true ∧
    (passDelivered (groupWho fillS 0 (grp .off)) (grp .off) 0 wP ((unit0 none 0).wIxs (grp .off)) (zeros .bf16 1024) fillS).2.isNone = true := by decide +kernel
def lastS : State := withPass .off (unit0 (some []) 1) task0
theorem witness_MatrixPass_last : (lastS.core 0).units = [unit0 (some []) 1] ∧ groupOf (lastS.core 0) (unit0 (some []) 1) = some (grp .off) ∧
    (unit0 (some []) 1).rows = (grp .off).op.m ∧ (grp .off).op.scope = .off ∧ (grp .off).verdict ≠ some true := by decide +kernel
def once : Task := { task0 with desc := desc0 [0] true }
theorem witness_LetOut : letOut ((withPass .tile (unit0 none 0) task0).core 0) .tile = some (grp .tile) ∧
    letOut ((withPass .layer (unit0 none 0) task0).core 0) .layer = some (grp .layer) ∧ (withPass .layer (unit0 none 0) task0).task 7 = some task0 ∧
    task0.desc.nonReplayable = false ∧ (withPass .layer (unit0 none 0) once).task 7 = some once ∧ once.desc.nonReplayable = true ∧
    (withPass .layer (unit0 none 0) once).flag F.fltPartStatusFaulted 0 = false := by decide +kernel

/-- A load stream of 512 words in slot 0, alone or of a group of one core; a request of it and a store of the same slot. -/
def loadD (mcast : Bool) : Desc := { lin false .fp32 0x210000 64 8 with mcast := mcast }
def loadS (mcast : Bool) : State := withStreams [((0, 0), strm (loadD mcast))] (prog [.nop])
def nopRequest : Request := { id := 3, core := 0, ctx := 0, slot := 0, task := 7, loc := 0x210000, len := 256, offload := false, members := [] }
def store0 (issued : Bool) : Store := { id := 4, core := 0, ctx := 0, slot := 0, task := 7, loc := 0x210010, bytes := [9, 8, 7, 0], issued := issued, offload := false }
def storeS (issued : Bool) : State := { loadS false with stores := [store0 issued] }
/-- What the stream lacks from its first element on, and where the segment's request ends. -/
def lacked (m : Bool) : Fetch := nextFetch (loadS m) (whoOf (loadS m) 0 0 (strm (loadD m)).trim) 0 .own (strm (loadD m)).trim (loadD m).total 4096 0
def stopped (m : Bool) : Nat := (spanEnd (loadS m) (whoOf (loadS m) 0 0 (strm (loadD m)).trim) (strm (loadD m)).trim (loadD m).total 0x210000 2048 1 0x210004).2.2
theorem witness_StreamRequests : (loadS false).Inv ∧ coreWorks (loadS false) 0 = true ∧ ((loadS false).core 0).halted = false ∧
    atMarker ((loadS false).core 0) 0 = false ∧ ((loadS false).core 0).anyStream 0 0 = some (strm (loadD false)) ∧
    (((loadS false).core 0).ctx 0).task = some (strm (loadD false)).boundBy ∧ (strm (loadD false)).early = false ∧ (strm (loadD false)).ready = true ∧
    (loadD false).store = false ∧ Nat.max (strm (loadD false)).ahead (strm (loadD false)).pos < (loadD false).total ∧
    trackerFree (loadS false) 0 false = true ∧ (loadD false).mcast = false ∧ lacked false = .at 0 0x210000 0x210004 false 0x210000 ∧
    stopped false = 0x210100 ∧ claimed (loadS false) 0 0 0 (strm (loadD false)) + 256 ≤ stageShare (loadS false) 0 ∧
    (loadS false).stores = [] ∧ ((loadS false).core 0).groups = [] ∧ (loadS false).reqs = [] ∧ portFree (loadS false) 0x210000 = true := ⟨inv_of _ (by decide +kernel), by decide +kernel⟩
theorem witness_StreamRequests_mcast : (loadS true).Inv ∧ coreWorks (loadS true) 0 = true ∧ ((loadS true).core 0).halted = false ∧
    atMarker ((loadS true).core 0) 0 = false ∧ ((loadS true).core 0).anyStream 0 0 = some (strm (loadD true)) ∧ trackerFree (loadS true) 0 false = true ∧
    ((loadS true).core 0).streams.find? (fun e => e.1.2 == 0 && e.2.desc.mcast && !e.2.left && !e.2.early) = some ((0, 0), strm (loadD true)) ∧
    (loadS true).task 7 = some task0 ∧ lacked true = .at 0 0x210000 0x210004 false 0x210000 ∧ stopped true = 0x210100 ∧
    claimed (loadS true) 0 0 0 (strm (loadD true)) + 256 ≤ stageShare (loadS true) 0 ∧
    (∀ m ∈ task0.desc.mask, mcastWaits (loadS true) task0 0 (strm (loadD true)) m = false) ∧
    (∀ m ∈ mcastGroup (loadS true) task0 0 (strm (loadD true)), claimed (loadS true) m.1 m.2.1 0 m.2.2 + 256 ≤ stageShare (loadS true) m.1) ∧
    mcastGroup (loadS true) task0 0 (strm (loadD true)) ≠ [] := ⟨inv_of _ (by decide +kernel), by decide +kernel⟩
theorem witness_StreamRequests_answers : (storeS false).Inv ∧
    ((storeS false).stores.filter fun y => y.core == 0 && y.ctx == 0 && (y.slot == 0) && !y.issued).getLast? = some (store0 false) ∧
    coreWorks (storeS false) 0 = true ∧ trackerFree (storeS false) 0 false = true ∧ (storeS true).stores = [store0 true] ∧ (store0 true).merged = none ∧
    isHostLoc (store0 true).loc = false ∧ (storeS true).mem.poison = [] ∧ { loadS false with reqs := [nopRequest] }.reqs = [nopRequest] ∧
    nopRequest.dead = false ∧ nopRequest.pass = none ∧ nopRequest.later = none ∧ isHostLoc nopRequest.loc = false ∧
    (loadS false).poisonIn nopRequest.loc nopRequest.len = none ∧ ((loadS false).core 0).streams = [((0, 0), strm (loadD false))] ∧
    (strm (loadD false)).trim.size + nopRequest.len ≤ stageShare { loadS false with reqs := [nopRequest] } 0 := ⟨inv_of _ (by decide +kernel), by decide +kernel⟩
/-- A task that waits to start on core 0 after the running one, whose block begins with a BIND to the last slot; a second context of a core. -/
def next0 : Task := { task0 with id := 8, index := 1, started := [], desc := { desc0 [0] false with block := 0x3000 } }
def aheadS : State := put 0x8000 (linBytes Fmt.bf16.code 0x210000 64 16 16)
  (put 0x3000 ([bindI, .endOp].flatMap fun i => bytesOf 16 (encodeWord i)) { prog [.nop] with tasks := [task0, next0] })
def twoCtx : State := { with_ [at_ F.hostPartCfgLayout 2, at_ F.hostExecCtxCount 2] up with cores := [(0, { ctxs := [(3, { task := some 8 })] })] }
theorem witness_RunAhead : nextTask aheadS 0 0 = some next0 ∧ (laterTasks aheadS 0 0).head? = some next0 ∧ ((aheadS.core 0).ctx 0).ahead = none ∧
    openings aheadS (who0 aheadS) next0 64 0 = [bindI] ∧ (aheadS.core 0).anyStream 0 15 = none ∧ 15 < 16 / aheadS.ctxCount 0 ∧
    okIs (bindDesc aheadS (who0 aheadS) next0 false (descAddr next0 (who0 aheadS) false 0x8000)) (lin false .bf16 0x210000 64 16) = true ∧
    3 ≠ (twoCtx.core 0).running ∧ 3 < twoCtx.ctxCount (twoCtx.partOfCore 0) ∧ coreWorks twoCtx 0 = true ∧
    ctxReady twoCtx 0 (twoCtx.core 0).running = false ∧ ctxReady twoCtx 0 3 = true := by decide +kernel
/-- A ring with a task of two adjacent regions; with a length of one byte more the first overlaps the second. -/
def regionBytes (start len kind : Nat) : List Byte := bytesOf 16 (start + 2 ^ 64 * len + 2 ^ 104 * kind)
def taskBytes : List Byte := bytesOf 64 (0x1000 + 2 ^ 64 + 2 ^ 222 + 2 ^ 224 * (5 + 2 ^ 16 * 3) + 2 ^ 384 * (0x9000 + 2 ^ 58))
def ring (bs : List Byte) (len : Nat) : State := put 0x9000 (regionBytes 0x200000 len 0 ++ regionBytes 0x201000 0x1000 1) (put 0x20000 bs
  (with_ [at_ F.hostQBaseAddr (0x20000 / 64), at_ F.hostQCtrlEn 1, at_ F.hostQTailTail 2] (leaf up)))
def ready (len : Nat) : State := { ring taskBytes len with queues := [((0, 0), { fetched := parseTask taskBytes })] }
theorem witness_TaskLife_fetch : partOpen (ring taskBytes 0x1000) 0 = true ∧ (ring taskBytes 0x1000).flag F.hostQCtrlEn 0 0 = true ∧
    (ring taskBytes 0x1000).flag F.hostQStatusHeld 0 0 = false ∧ ((ring taskBytes 0x1000).queue 0 0).fetched = none ∧
    skipDone (ring taskBytes 0x1000) 0 0 65536 0 = 0 ∧ readRange (ring taskBytes 0x1000) 0 (pasidKey (ring taskBytes 0x1000) 0 0) 144 true 0x20000 64 = .ok taskBytes ∧
    (parseTask taskBytes).any (fun d => d.ok (ring taskBytes 0x1000) 0) = true ∧
    readRange (ring [1] 0x1000) 0 (pasidKey (ring [1] 0x1000) 0 0) 144 true 0x20000 64 = .ok (bytesOf 64 1) ∧ parseTask (bytesOf 64 1) = none := by decide +kernel
def regs (s : State) (d : TaskDesc) : List (Option Region) := match readRange s 0 (pasidKey s 0 0) 144 d.rva d.regions (16 * d.regionCount) with
  | .ok bs => (List.range d.regionCount).map fun k => parseRegion (bits (natOf bs) (128 * k) 128)
  | _ => []
theorem witness_TaskLife_dispatch : ((ready 0x1000).queue 0 0).fetched.isSome = true ∧ (ready 0x1000).powerOk 0 = true ∧
    (ready 0x1000).flag F.genStartupTiersReady = true ∧ (ready 0x1000).flag F.hostQStatusCplFull 0 0 = false ∧
    ((ready 0x1000).queue 0 0).fetched.any (fun d => d.waits.all (fun w => (ready 0x1000).gateHolds w.1 w.2) && (regs (ready 0x1000) d).length == 2 &&
      (regs (ready 0x1000) d).all (·.isSome) && regionsOk ((regs (ready 0x1000) d).filterMap id)) = true ∧
    ((ready 0x1001).queue 0 0).fetched.any (fun d => (regs (ready 0x1001) d).length == 2 && !regionsOk ((regs (ready 0x1001) d).filterMap id)) = true := by decide +kernel
def fresh : Task := { task0 with started := [] }
def ended : Task := { task0 with started := [0], retired := [(0, 0)], desc := { desc0 [0] false with signal := some (5, 3) } }
theorem witness_TaskLife_end : (({ up with tasks := [fresh] }.core 0).ctx 0).task = none ∧ { up with tasks := [fresh] }.powerOk 0 = true ∧
    ({ up with tasks := [fresh] }.part 0).draining = false ∧ fresh.desc.mask.contains 0 = true ∧ fresh.started = [] ∧
    { up with tasks := [ended] }.task 7 = some ended ∧ taskRetired { up with tasks := [ended] } ended = true ∧ ended.collectives = [] ∧
    ended.signals = [] ∧ ended.desc.cpl = false ∧ ended.index = up.get F.hostQHeadHead 0 0 ∧ (up.queue 0 0).done = [] := by decide +kernel

/-! ### Witnesses: Garjor, Tally and the verdict -/

/-- A torus of 4 × 5 × 6 modules, port 1 (X−) of module 0 in a state with its link state. -/
def torus (s : State) : State := with_ [at_ F.fabTorusDimXMinus1 3, at_ F.fabTorusDimYMinus1 4, at_ F.fabTorusDimZMinus1 5] s
def portIn (st : Nat) (y : Port) : State := { with_ [at_ F.fabGpStatusState st 1, at_ F.fabGpStatusLanesUp 0xFF 1] (torus up) with ports := [(1, y)] }
def outside : State := with_ [at_ F.fabCoordX 4] (torus up)
theorem witness_PortTraining : (torus up).mgmt = .pf0 ∧ Reaches .pf0 ⟨.fabGpCtrl, 1, 0⟩ (torus up) ∧ trainBad (torus up) = false ∧
    (torus up).dims.getD 0 1 ≠ 1 ∧ outside.mgmt = .pf0 ∧ Reaches .pf0 ⟨.fabGpCtrl, 1, 0⟩ outside ∧ trainBad outside = true ∧
    up.mgmt = .pf0 ∧ Reaches .pf0 ⟨.fabGpCtrl, 1, 0⟩ up ∧ trainBad up = false ∧ up.dims.getD 0 1 = 1 ∧
    portState (portIn 1 {}) 1 = 1 ∧ neighbour (portIn 1 {}) 1 = [3, 0, 0] ∧ (1 : Nat) ≠ 1 ^^^ 1 ∧ ((portIn 1 { said := 1 }).port 1).said = 1 ∧
    laneSet (0xFF : BitVec 8).toNat = some (0xFF, 0) ∧ laneSet (0x77 : BitVec 8).toNat = none := by decide +kernel
def payload : List Byte := List.replicate 248 0x11
def payload0 : List Byte := List.replicate 248 0
/-- A received flit with its CRC. -/
def rxFlit (ty vc seq : Nat) (last : Bool) (pl : List Byte) : RxFlit :=
  ⟨BitVec.ofNat 32 (flitHdr ty vc seq 0 false last), BitVec.ofNat 32 (flitCrc (flitHdr ty vc seq 0 false last) pl), pl⟩
def dataFlit (last : Bool) (pl : List Byte) : RxFlit := rxFlit 1 2 4095 last pl
def mgmtFlit : RxFlit := rxFlit 1 4 4095 true payload0
def linked : State := portIn 2 { rxSeq := 4095 }
/-- A DATA flit on VC 2 that goes on, one that ends its packet here, one on VC 4, one with an uncorrectable codeword, and one with another CRC. -/
theorem witness_Flits_data : portUp linked 1 = true ∧ flitGood 1 (flitWord (dataFlit false payload)) payload [15, 0] = true ∧
    hdrSeq ((flitWord (dataFlit false payload)) % 2 ^ 32) = (linked.port 1).rxSeq ∧ (flitWord (dataFlit false payload)) % 2 ^ 32 / 2 ^ 31 = 0 ∧
    flitGood 1 (flitWord (dataFlit true payload0)) payload0 [] = true ∧ (flitWord (dataFlit true payload0)) % 2 ^ 32 / 2 ^ 31 = 1 ∧
    (flitWord (dataFlit true payload0)) % 2 ^ 32 / 8 % 8 = 2 ∧ flitGood 1 (flitWord mgmtFlit) payload0 [] = true ∧ (flitWord mgmtFlit) % 2 ^ 32 / 8 % 8 = 4 ∧
    routePort linked (natOf (payload0.take 8) % 4096) = none ∧ linked.partExists (natOf (payload0.take 8) / 4096 % 4) = true ∧
    flitGood 1 (flitWord (dataFlit false payload)) payload [16] = false ∧ flitGood 1 (flitWord (dataFlit false payload)) payload0 [] = false := by decide +kernel
def sent (n : Nat) : Sent := { seq := n, ctrl := none, vc := 0, last := true, payload := payload, tag := none }
def replaying : State := portIn 2 { replay := [sent 4095, sent 0], txSeq := 1 }
theorem witness_Flits_in : flitGood 2 (flitWord (rxFlit 2 0 4095 false payload)) payload [] = true ∧ hdrSeq ((flitWord (rxFlit 2 0 4095 false payload)) % 2 ^ 32) = (linked.port 1).rxSeq ∧
    (linked.port 1).credits.length = 8 ∧ nothingQueued (linked.port 1) = true ∧ ((portIn 2 { rxSeq := 4095, lpiAsked := true }).port 1).lpiAsked = true ∧
    flitGood 0 (flitWord (rxFlit 0 0 0 false payload)) payload [] = true ∧ flitGood 3 (flitWord (rxFlit 3 0 0 false payload)) payload [] = true ∧
    portUp replaying 1 = true ∧ (replaying.port 1).replay.findIdx? (fun f => f.seq == hdrSeq ((flitWord (rxFlit 3 0 0 false payload)) % 2 ^ 32)) = some 1 := by decide +kernel
def pkt : Pkt := { vc := 1, part := 0, tag := some (0, 4), flits := [payload, payload] }
def repeating : State := portIn 2 { replay := [sent 4095, sent 0], txSeq := 1, back := 2 }
theorem witness_Flits_out : (linked.port 1).nakDue = false ∧ (linked.port 1).back = 0 ∧ (linked.port 1).replay.length < 1536 ∧
    (linked.port 1).sinceIdle < 4095 ∧ (linked.port 1).ctrlq = [] ∧ arbitrate (linked.port 1) = none ∧
    4095 ≤ ((portIn 2 { sinceIdle := 4095 }).port 1).sinceIdle ∧ ((portIn 2 { nakDue := true }).port 1).nakDue = true ∧
    0 < (repeating.port 1).back ∧ (repeating.port 1).replay[(repeating.port 1).replay.length - (repeating.port 1).back]? = some (sent 4095) ∧
    (sent 4095).ctrl = none ∧ ((portIn 2 { ctrlq := [.recalEnd] }).port 1).ctrlq = [.recalEnd] ∧
    (arbitrate ((portIn 2 { txq := [pkt] }).port 1)).map (·.1) = some 1 ∧ vcPick ((portIn 2 { txq := [pkt] }).port 1) 1 = some pkt := by decide +kernel
def retraining : State := portIn 2 { retraining := true }
def idling : State := with_ [at_ F.fabGpStatusLpi 1 1] (portIn 2 {})
/-- Every partition is folded. -/
def foldedPort (y : Port) : State := with_ [.reg ⟨.pwrState, 0, 0⟩ 0x2] (portIn 2 y)
/-- All lanes, the lower half alone, and three lanes of each half. -/
theorem witness_PortUpkeep : portUp (portIn 2 { nakCount := 8 }) 1 = true ∧ 8 ≤ ((portIn 2 { nakCount := 8 }).port 1).nakCount ∧
    portState (portIn 3 { nakCount := 8 }) 1 = 3 ∧
    (retraining.port 1).retraining = true ∧ (0xFF % 256 &&& retraining.get F.fabGpStatusLanesUp 1) = 0xFF ∧
    laneSet (0x0F % 256 &&& retraining.get F.fabGpStatusLanesUp 1) = some (0x0F, 1) ∧ laneSet (0x77 % 256 &&& retraining.get F.fabGpStatusLanesUp 1) = none ∧
    portUp (foldedPort {}) 1 = true ∧ allFolded (foldedPort {}) = true ∧ nothingQueued ((foldedPort {}).port 1) = true ∧
    ((foldedPort {}).port 1).lpiAsked = false ∧ idling.flag F.fabGpStatusLpi 1 = true ∧ lpiOver idling 1 = true := by decide +kernel
theorem witness_PortUpkeep_recal : recalStarter (portIn 2 { due := true }) 1 = true ∧ portUp (portIn 2 { due := true }) 1 = true ∧
    recalDue (portIn 2 { due := true }) 1 = true ∧ recalWindow (portIn 2 { due := true }) 1 = true ∧
    10000000000 ≤ ((portIn 2 { calAge := 10000000000 }).port 1).calAge ∧ portUp (portIn 2 { calAge := 10000000000 }) 1 = true ∧
    recalStarter (portIn 2 { calAge := 10000000000 }) 1 = true ∧ portState (portIn 3 {}) 1 = 3 := by decide +kernel
/-- The last module of each axis, seen from the first: one hop backwards on X; half-way round Z the packet goes forwards. -/
theorem witness_RouteApproaches : (∀ k < 3, (torus up).coords.getD k 0 < (torus up).dims.getD k 1 ∧ (rankXyz (rankOf [3, 4, 5])).getD k 0 < (torus up).dims.getD k 1) ∧
    routePort (torus up) (rankOf [3, 4, 5]) = some 1 ∧ routePort (torus up) (rankOf [0, 0, 3]) = some 4 ∧ routePort (torus up) (rankOf [0, 0, 0]) = none := by
  decide +kernel
/-- The last flit of a packet for (1, 1, 1), on port X−, goes on by port X+. -/
theorem witness_RouteApproaches_forward : portUp linked 1 = true ∧ flitGood 1 (flitWord (dataFlit true payload)) payload [] = true ∧
    hdrSeq ((flitWord (dataFlit true payload)) % 2 ^ 32) = (linked.port 1).rxSeq ∧ (flitWord (dataFlit true payload)) % 2 ^ 32 / 2 ^ 31 = 1 ∧
    routePort linked (natOf (payload.take 8) % 4096) = some 0 := by decide +kernel

/-- A collective of one rank (group 4) and one of the X line in the list of partition 0, with device memory mapped. -/
def coll (group seq : Nat) : Coll := { seq := seq, c := { gradColl group with src := 0x210000, dst := 0x220000 }, mode := 0, handoff := 0, e := 0 }
def closing (seq : Nat) : Coll := { seq := seq, c := { kind := .stepClose, mode := 0, group := 4, gate := 5 }, mode := 0, handoff := 0, e := 0 }
def tally (l : List Coll) (rx : List RxPkt) (s : State) : State :=
  { with_ [at_ F.redSeqNext 2] (leaf s) with parts := [(0, { tally := { list := l, rx := rx } })] }
theorem witness_Collectives_read : (tally [coll 4 0] [] up).Inv ∧ findColl (tally [coll 4 0] [] up) 0 0 = some (coll 4 0) ∧
    folded (tally [coll 4 0] [] up) 0 = false ∧ 0 < blockCount (coll 4 0).c ∧ (tget (coll 4 0).blks 0 {}).own = none ∧ contributes (tally [coll 4 0] [] up) 0 (coll 4 0) 0 = true ∧
    (readOperand (tally [coll 4 0] [] up) 0 (coll 4 0) 0).1 = .ok (List.replicate 256 0) ∧
    (readOperand (tally [coll 4 0] [] up) 0 (coll 4 0) 0).2 = (.ok [], .ok []) ∧ closeOf (tally [coll 4 0] [] up) 0 = none ∧ (coll 4 0).c.kind ≠ .stepClose :=
  ⟨inv_of _ (by decide +kernel), by decide +kernel⟩
def doneColl : Coll := { coll 4 0 with blks := [(0, { own := some [], gone := true, written := true })] }
theorem witness_Collectives_done : findColl (tally [doneColl] [] up) 0 0 = some doneColl ∧
    (∀ b < blockCount doneColl.c, blkDone (tally [doneColl] [] up) 0 doneColl b = true) ∧
    allSent (tally [doneColl] [] up) 0 0 = true ∧ doneColl.flag = false := by decide +kernel
/-- A packet: its header after 8 bytes of route, then its payload. -/
def packet (h : THdr) (pl : List Byte) : RxPkt := { bytes := List.flatten [bytesOf 8 0, { h with pcrc := crc32 pl }.bytes, pl], time := 3 }
def fromX (gen : Nat) : RxPkt := packet { seq := 0, stage := 0, src := 1, group := 0, gen := gen, shape := 64, hops := 1 } (List.replicate 256 0)
def receiving (gen : Nat) : State := tally [coll 0 0] [fromX gen] (torus up)
theorem witness_Collectives_packet : (parseTHdr (fromX 0).bytes).seq = 0 ∧ (parseTHdr (fromX 0).bytes).kind < 5 ∧
    folded (receiving 0) 0 = false ∧ folded (receiving 9) 0 = false ∧ ((receiving 0).part 0).tally.rx = [fromX 0] ∧
    packetFate (receiving 0) 0 (parseTHdr (fromX 0).bytes) = .use ∧ (parseTHdr (fromX 0).bytes).block < blockCount (coll 0 0).c ∧
    (stagesOf (receiving 0) 0 (acting (receiving 0) 0).1 false 0 0).any (fun g => g.axis == (parseTHdr (fromX 0).bytes).stage) = true ∧
    findColl (receiving 0) 0 0 = some (coll 0 0) ∧ genFate (receiving 9) 0 (parseTHdr (fromX 9).bytes).gen = .bad 0x5003 ∧
    (receiving 9).flag F.fltPartStatusFaulted 0 = false := by decide +kernel
def forced : State := with_ [at_ F.redLayoutPending 1] (tally [coll 4 0, closing 1] [] up)
def abortPkt : RxPkt := packet { kind := 6 } (bytesOf 8 5)
/-- An ABORT of the present step, and one of the step before. -/
def abortIn (step : Nat) : State := with_ [at_ F.hostTrainStepStep step] (tally [coll 4 0, closing 1] [abortPkt] up)
theorem witness_StepAbort : Reaches .pf0 ⟨.redLayout, 0, 0⟩ forced ∧ forced.owns .pf0 0 = true ∧ forced.flag F.redLayoutPending 0 = true ∧
    Reaches .pf0 ⟨.redLayout, 0, 0⟩ up ∧ up.owns .pf0 0 = true ∧ up.flag F.redLayoutPending 0 = false ∧
    folded (abortIn 5) 0 = false ∧ ((abortIn 5).part 0).tally.rx = [abortPkt] ∧ (parseTHdr abortPkt.bytes).kind = 6 ∧ natOf ((abortPkt.bytes.drop 32).take 8) = 5 ∧
    (abortIn 5).get F.hostTrainStepStep 0 = 5 ∧ genFate (abortIn 5) 0 (parseTHdr abortPkt.bytes).gen = .use ∧ (abortIn 6).get F.hostTrainStepStep 0 = 6 := by decide +kernel
def verdict (step code : Nat) : List Byte := Verdict.bytes { step := step, code := code, escalated := false, noiseInvalid := false, l := 0, g := 0 }
def verdictPkt (step : Nat) : RxPkt := packet { seq := 1, kind := 5 } (verdict step 0)
def boundary (step : Nat) : State := tally [closing 1] [verdictPkt step] up
theorem witness_VerdictBoundary : (boundary 0).Inv ∧ folded (boundary 0) 0 = false ∧ closeOf (boundary 0) 0 = some (closing 1) ∧ ((boundary 0).part 0).tally.rx = [verdictPkt 0] ∧
    (parseTHdr (verdictPkt 0).bytes).kind = 5 ∧ findColl (boundary 0) 0 (parseTHdr (verdictPkt 0).bytes).seq = some (closing 1) ∧
    genFate (boundary 0) 0 (parseTHdr (verdictPkt 0).bytes).gen = .use ∧
    crc32 (((verdictPkt 0).bytes.drop 32).take 16) = (parseTHdr (verdictPkt 0).bytes).pcrc ∧
    (parseVerdict (((verdictPkt 0).bytes.drop 32).take 16)).step = (boundary 0).get F.hostTrainStepStep 0 % 2 ^ 48 ∧
    (boundary 0).get F.hostTrainRecAddr 0 = 0 ∧ ((boundary 0).part 0).boundary = [] ∧ (boundary 0).flag F.fltPartStatusFaulted 0 = false ∧
    (parseVerdict (((verdictPkt 3).bytes.drop 32).take 16)).step ≠ (boundary 3).get F.hostTrainStepStep 0 % 2 ^ 48 :=
  ⟨inv_of _ (by decide +kernel), by decide +kernel⟩
theorem witness_VerdictBoundary_limit : (∀ g ∈ stagesOf (boundary 0) 0 (acting (boundary 0) 0).1 true 4 0, g.pos + 1 = g.n) ∧
    (acting (boundary 0) 0).2 = false ∧ (closing 1).closeGone = false := by decide +kernel

/-! ### Worked values of the spec -/

/-- The words of 07's worked encodings: a narrow pass, a BIND and a REDUCE_SCATTER. -/
theorem test_word_mpass : decodeWord 0x1078823F230000000000000000000000 =
    some (.mpass ⟨.e2m1, true, .mulAdd, true, .bufA, false, false, false, .tile, 63, 2, 3⟩) := by decide +kernel
theorem test_word_bind : decodeWord 0x30310001000000100000000000000000 = some (.desc .bind 3 0 false true 0x10000001000) ∧
    decodeWord 0x30330001000000100000000000000000 = some (.desc .bind 3 0 true true 0x10000001000) := by decide +kernel
theorem test_word_reduce : decodeWord 0x51100C80000100000020000000000000 = some (.reduce .reduceScatter 1 0 200 0x10000002000) := by decide +kernel
/-- 02's worked conversions. -/
theorem test_convert_ties : (Fmt.bf16.convert {} (Fmt.fp32.decode 0x3F808000)).bits = 0x3F80 ∧
    (Fmt.bf16.convert {} (Fmt.fp32.decode 0x3F818000)).bits = 0x3F82 ∧ Fmt.e4m3.convert {} (Machine.Num.ofInt 464) = { bits := 0x7E } := by decide +kernel
theorem test_convert_top : Fmt.e5m2.convert {} (Machine.Num.ofInt 60000) = { bits := 0x7B } ∧
    Fmt.e5m2.convert {} (Machine.Num.ofInt 61440) = { bits := 0x7B, saturated := true } ∧
    Fmt.e5m2.convert { ovfInf := true } (Machine.Num.ofInt 61440) = { bits := 0x7C, nonfinite := true } ∧
    Fmt.e4m3.convert { ovfInf := true } (Machine.Num.ofInt 500) = { bits := 0x7E, saturated := true } := by decide +kernel
theorem test_convert_integers : (Fmt.int8.convert {} (.fin true 7 1 (-1))).bits = 0xFC ∧
    Fmt.int8.convert {} (.fin false 1306 10 0) = { bits := 0x7F, saturated := true } ∧
    (Fmt.int8.convert { sat := false } (.fin false 1306 10 0)).bits = 0x83 := by decide +kernel
theorem test_convert_block : let r := Fmt.e2m1.convertBlock .chosen ([.fin false 39 10 0, .fin false 25 10 0, .fin false 13 10 0, .fin false 25 100 0,
      .fin true 2 10 0] ++ List.replicate 27 (.zero false))
    r.1 = 0x7F ∧ (r.2.map (·.bits)).take 6 = [6, 4, 3, 0, 8, 0] ∧ (Marks.ofConvs r.2).zeroed = 2 ∧ (Marks.ofConvs r.2).saturated = 0 := by decide +kernel
theorem test_convert_nonfinite_block : Fmt.e4m3.convertBlock .chosen [.inf false, numOne] =
    (0xFF, [{ bits := 0, nonfinite := true }, { bits := 0 }]) := by decide +kernel
/-- 03's group of three products. -/
theorem test_group_sum : (toFp32 {} (groupSum .bf16 false 0 0 (([(0x4480, 0x4480), (0xC480, 0x4480), (0x38C0, 0x3880)].map fun p =>
    Machine.Num.mul (Fmt.bf16.decode p.1) (Fmt.bf16.decode p.2)) ++ List.replicate 13 (.zero false)))).bits = 0x31800000 := by decide +kernel
/-- 04's weight tile lets out, its activation tile does not; 05's element (37, 21); 06's gate 1030. -/
theorem test_letout_limits : overLimit 149 32 4096 = true ∧ overLimit 30 32 4096 = false ∧ overLimit 128 32 4096 = false := by decide +kernel
theorem test_tiled_element : elemIx true 40 37 21 * 2 = 3754 := by decide +kernel
theorem test_gate_wraps : (with_ [at_ F.hostGateValue 0xFFFFFFFE 1030] up).gateHolds 1030 2 = false ∧
    (with_ [at_ F.hostGateValue 2 1030] up).gateHolds 1030 2 = true := by decide +kernel
/-- The trace of 08's generator, and the two draws of its example. -/
theorem test_generator : counterGen 0 0 = (0xB1D814853F8460B3, 0x30E247692F0961F6) ∧
    (counterGen 0 0).1.toNat * 10 / 2 ^ 64 = 6 ∧ (counterGen 0 0).2.toNat * 10 / 2 ^ 64 = 1 := by decide +kernel
/-- 09's two steps of a LINED weight. -/
def lined : UpdEnv := ⟨⟨numOne, numOne, numOne, numOne, numOne, numOne⟩, false, false, .lined, 0, 0, 0, 0, 0⟩
theorem test_lined_update : newWeight lined 0 (effective .lined (Fmt.bf16.decode 0x3F80) 0) (.fin false 3 1 (-10)) = (0x3F80, 0x60) ∧
    newWeight lined 0 (effective .lined (Fmt.bf16.decode 0x3F80) 0x60) (.fin false 3 1 (-10)) = (0x3F81, 0xC0) := by decide +kernel
/-- 10's route from (2, 15, 3) to (14, 1, 3): X in the negative direction, from x = 14 Y in the positive one. -/
def torus16 (x y z : Nat) : State := with_ [at_ F.fabTorusDimXMinus1 15, at_ F.fabTorusDimYMinus1 15, at_ F.fabTorusDimZMinus1 15, at_ F.fabCoordX x,
  at_ F.fabCoordY y, at_ F.fabCoordZ z] up
theorem test_route : routePort (torus16 2 15 3) 798 = some 1 ∧ routePort (torus16 14 15 3) 798 = some 2 ∧
    routePort (torus16 14 1 3) 798 = none := by decide +kernel
/-- A message and its 30 parity symbols vanish at the roots of the generator. -/
theorem test_code_roots : (List.range 30).all (fun j =>
    ([3, 1000] ++ rsParity [3, 1000]).foldl (fun v x => gfMul v (gfPow j) ^^^ x) 0 == 0) = true := by decide +kernel
/-- 11's ring of four ranks in WIDE16: at scale code 0x73 the third member's sum travels as FP32; at 0x74 all stay integers. -/
theorem test_wide_ring : let a := wideOwn 0x73 none [0x40780000]
    let b := wideOwn 0x73 (some a) [0x40700000]
    let c := wideOwn 0x73 (some b) [0x40680000]
    a = ([15872], false) ∧ b = ([31232], false) ∧ c = ([0x41340000], true) ∧ wideOwn 0x73 (some c) [0x40600000] = ([0x416C0000], true) ∧
    wideOwn 0x74 (some ([7936 + 7680 + 7424], false)) [0x40600000] = ([30208], false) := by decide +kernel
/-- 12's duty of 47; 14's stack of an address. -/
theorem test_fold_duty : dutyFor { with_ [at_ F.pwrFoldOp0W 620, at_ F.pwrFoldFoldW 110] up with power := { up.power with targetDw := 4900 } } = 47 := by
  decide +kernel
theorem test_serving_stack : ceUnitOf up 0x004123456740 = .tier1 12 ∧ cePlace (ceUnitOf up 0x004123456740) = (1, 4) := by decide +kernel
/-- Two partitions, the second PF_1's. -/
def twoOwners : State := with_ [at_ F.hostPartCfgLayout 1, at_ F.hostPartCfgOwner 2] up
/-- 17's refused write and reserved bit, cleared by 0x83; its register of core 3 of die 1. -/
theorem test_error_register :
    let s := run (hostWrite .pf1 0x700004 4 0x10) (run (writeOne .pf1 ⟨.hostGate, 5, 0⟩ 1) twoOwners)
    s.reg ⟨.cfgErr, 1, 0⟩ = 0xA3 ∧ s.reg ⟨.cfgErrAddr, 1, 0⟩ = 0x80108014 ∧ s.get F.hostGateValue 5 = 0 ∧
    (run (writeOne .pf1 ⟨.cfgErr, 1, 0⟩ 0x83) s).reg ⟨.cfgErr, 1, 0⟩ = 0 := by decide +kernel
theorem test_core_register : regAt .pf0 0x0150C318 = some ⟨.coreStallIndex, 1, 3⟩ := by decide +kernel

end Sys2Proof.Tests
end

/-! ### Droop events of a compute die (R35, R45) -/

namespace Sys2Proof.Machine

/-- DIE_d_DROOP_COUNT has no reserved bit: its one field fills all 64. -/
theorem held_dieDroopCount : RegName.held .dieDroopCount = BitVec.allOnes 64 := by decide

/-- What the power controller holds is no register. -/
theorem State.reg_power (s : State) (g : PowerCtl → PowerCtl) (r : Reg) : (Upd.apply (.power g) s).reg r = s.reg r := rfl

/-- A change of the power controller after a register write leaves only those two parts of the state changed. -/
theorem Upd.power_reg_frame (s : State) (r : Reg) (v : DWord) (g : PowerCtl → PowerCtl) :
    Upd.apply (.power g) (Upd.apply (.reg r v) s) = { s with regs := tset s.regs r (v &&& r.name.held), power := g s.power } := rfl

theorem exec_droopEventStart (d : DieIx) (depth : Nat) (s : State) : exec (.droopEventStart d depth) s = .next (run (droopStartAct d depth) s) := rfl
theorem exec_droopEventEnd (d : DieIx) (s : State) : exec (.droopEventEnd d) s = .next (run (droopEndAct d) s) := rfl

/-- The counter's next value: one more, and at most the greatest 64-bit number (R35). -/
def droopCountNext (s : State) (d : Nat) : Nat := min ((s.reg ⟨.dieDroopCount, d, 0⟩).toNat + 1) (2 ^ 64 - 1)

/-- The next value fits the register, so that it is read back as it is. -/
theorem droopCountNext_held (s : State) (d : Nat) :
    (BitVec.ofNat 64 (droopCountNext s d) &&& RegName.held .dieDroopCount).toNat = droopCountNext s d := by
  have hlt : droopCountNext s d < 2 ^ 64 := by unfold droopCountNext; omega
  rw [held_dieDroopCount, BitVec.and_allOnes, BitVec.toNat_ofNat, Nat.mod_eq_of_lt hlt]

/-- A rail that falls below the threshold outside an event begins one: the counter takes its next value and the die is listed. -/
theorem run_droopStartAct_begins {s : State} {d depth : Nat} (hnew : s.power.droop.contains d = false)
    (hdeep : Nat.max 10 (s.get F.dieDroopCfgThreshMv d) < depth) (hawake : asleep s = false) :
    run (droopStartAct d depth) s =
      Upd.apply (.power fun x => { x with droop := d :: x.droop })
        (Upd.apply (.reg ⟨.dieDroopCount, d, 0⟩ (BitVec.ofNat 64 (droopCountNext s d))) s) := by
  have hgo : ¬ (s.power.droop.contains d ∨ depth ≤ Nat.max 10 (s.get F.dieDroopCfgThreshMv d) ∨ asleep s = true) := by
    rw [hnew, hawake]
    simpa using hdeep
  rw [run, droopStartAct, if_neg hgo]
  rfl

/-- The end of an event takes the die off the list. -/
theorem run_droopEndAct (d : Nat) (s : State) :
    run (droopEndAct d) s = { s with power := { s.power with droop := s.power.droop.filter fun y => decide (y ≠ d) } } := rfl

/-- Settles O28: the start of an event is one write of the counter and one entry of the list of droops, the end is the removal of that entry. -/
theorem droopOnlyCounted : Obligations.DroopOnlyCounted := by
  intro d depth s
  constructor
  · intro hnew hfloor hthresh hawake
    refine ⟨_, exec_droopEventStart d depth s, ?_⟩
    rw [run_droopStartAct_begins hnew (Nat.max_lt.2 ⟨hfloor, hthresh⟩) hawake]
    refine ⟨?counted, ?others, Upd.power_reg_frame ..⟩
    case counted =>
      rw [State.reg_power, State.reg_reg, if_pos rfl]
      exact droopCountNext_held s d
    case others =>
      intro r hr
      rw [State.reg_power, State.reg_reg, if_neg (Ne.symm (List.ne_of_not_mem_cons hr))]
  · refine ⟨_, exec_droopEventEnd d s, ?_⟩
    rw [run_droopEndAct]
    exact ⟨by simp, rfl⟩

end Sys2Proof.Machine

/-! ### Routes of Garjor (R356, R358) -/

namespace Sys2Proof.Machine

/-! #### Hops on one axis -/

/-- Hops from `me` to `goal` in the positive direction of an axis of n modules. -/
def ringDist (n me goal : Nat) : Nat := (goal + n - me) % n

/-- Hops from `me` to `goal` in the direction that needs fewer. -/
def ringHops (n me goal : Nat) : Nat := min (ringDist n me goal) (n - ringDist n me goal)

/-- The module that R356 chooses next on an axis: the positive neighbour where that direction needs no more hops, else the negative one. -/
def ringNext (n me goal : Nat) : Nat := (me + if ringDist n me goal ≤ n - ringDist n me goal then 1 else n - 1) % n

section ring
variable {n me goal : Nat}

theorem ringDist_eq (hme : me < n) (hgoal : goal < n) : ringDist n me goal = if me ≤ goal then goal - me else goal + n - me := by
  unfold ringDist
  split
  · next h => rw [show goal + n - me = goal - me + n by omega, Nat.add_mod_right, Nat.mod_eq_of_lt (by omega)]
  · exact Nat.mod_eq_of_lt (by omega)

theorem ringForward_eq (hme : me < n) : (me + 1) % n = if me + 1 = n then 0 else me + 1 := by
  split
  · next h => rw [h, Nat.mod_self]
  · exact Nat.mod_eq_of_lt (by omega)

theorem ringBackward_eq (hme : me < n) : (me + (n - 1)) % n = if me = 0 then n - 1 else me - 1 := by
  split
  · next h => rw [h, Nat.zero_add]; exact Nat.mod_eq_of_lt (by omega)
  · rw [show me + (n - 1) = me - 1 + n by omega, Nat.add_mod_right, Nat.mod_eq_of_lt (by omega)]

/-- A hop in the chosen direction leaves one hop fewer. -/
theorem ringHops_ringNext (hme : me < n) (hgoal : goal < n) (hne : goal ≠ me) :
    ringHops n (ringNext n me goal) goal + 1 = ringHops n me goal := by
  have hnext : ringNext n me goal < n := Nat.mod_lt _ (by omega)
  rw [ringHops, ringHops, ringDist_eq hnext hgoal]
  unfold ringNext
  split
  case isTrue hfew =>
    rw [ringForward_eq hme]
    rw [ringDist_eq hme hgoal] at hfew ⊢
    grind
  case isFalse hmany =>
    rw [ringBackward_eq hme]
    rw [ringDist_eq hme hgoal] at hmany ⊢
    grind

/-- Where both directions need as many hops, the positive one needs no more than the other. -/
theorem ringDist_le_of_ringHops_half (hme : me < n) (h : 2 * ringHops n me goal = n) : ringDist n me goal ≤ n - ringDist n me goal := by
  have hlt : ringDist n me goal < n := Nat.mod_lt _ (by omega)
  unfold ringHops at h
  omega

end ring

/-! #### The port of the next hop -/

/-- The port for a packet that is not yet where it is bound on axis k; none where it is (R356). -/
def axisPort (s : State) (dest k : Nat) : Option Nat :=
  let d := ringDist (s.dims.getD k 1) (s.coords.getD k 0) ((rankXyz dest).getD k 0)
  if (rankXyz dest).getD k 0 = s.coords.getD k 0 then none else if d ≤ s.dims.getD k 1 - d then some (2 * k) else some (2 * k + 1)

theorem routePort_eq (s : State) (dest : Nat) : routePort s dest = (List.range 3).findSome? (axisPort s dest) := rfl

/-- Nothing but the torus and the positions decides. -/
theorem routePort_congr {s t : State} (dest : Nat) (hc : t.coords = s.coords) (hd : t.dims = s.dims) : routePort t dest = routePort s dest := by
  rw [routePort, routePort, hc, hd]

theorem axisPort_eq_none {s : State} {dest k : Nat} : axisPort s dest k = none ↔ (rankXyz dest).getD k 0 = s.coords.getD k 0 := by
  simp only [axisPort]
  split
  · next hdone => exact iff_of_true rfl hdone
  · next hne => split <;> simp only [reduceCtorEq, hne]

/-- A port of axis k joins the module that R356 chooses next on that axis. -/
theorem axisPort_eq_some {s : State} {dest k g : Nat} (h : axisPort s dest k = some g) :
    (rankXyz dest).getD k 0 ≠ s.coords.getD k 0 ∧ g / 2 = k ∧
      (g % 2 = 0 ↔ ringDist (s.dims.getD k 1) (s.coords.getD k 0) ((rankXyz dest).getD k 0) ≤
        s.dims.getD k 1 - ringDist (s.dims.getD k 1) (s.coords.getD k 0) ((rankXyz dest).getD k 0)) := by
  simp only [axisPort] at h
  split at h
  · cases h
  · next hne =>
    refine ⟨hne, ?_⟩
    split at h <;> obtain rfl := Option.some.inj h <;> omega

/-- The first hit in a range: nothing before it hits. -/
theorem findSome?_range_eq_some {α : Type} {f : Nat → Option α} {n : Nat} {a : α} (h : (List.range n).findSome? f = some a) :
    ∃ k < n, f k = some a ∧ ∀ j < k, f j = none := by
  induction n with
  | zero => simp at h
  | succ n ih =>
    rw [List.range_succ, List.findSome?_append, Option.or_eq_some_iff] at h
    rcases h with h | ⟨hnone, h⟩
    · obtain ⟨k, hk, hit⟩ := ih h
      exact ⟨k, Nat.lt_succ_of_lt hk, hit⟩
    · exact ⟨n, Nat.lt_succ_self n, by simpa using h, by simpa using hnone⟩

/-- The port of the next hop is that of the first axis on which the packet is not yet where it is bound. -/
theorem routePort_eq_some {s : State} {dest g : Nat} (h : routePort s dest = some g) :
    g / 2 < 3 ∧ axisPort s dest (g / 2) = some g ∧ ∀ k < g / 2, (rankXyz dest).getD k 0 = s.coords.getD k 0 := by
  obtain ⟨k, hk, hit, hbefore⟩ := findSome?_range_eq_some h
  obtain ⟨-, rfl, -⟩ := axisPort_eq_some hit
  exact ⟨hk, hit, fun j hj => axisPort_eq_none.1 (hbefore j hj)⟩

theorem rankXyz_eq_coords_iff {s : State} {dest : Nat} :
    rankXyz dest = s.coords ↔ ∀ k < 3, (rankXyz dest).getD k 0 = s.coords.getD k 0 := by
  constructor
  · intro h k _
    rw [h]
  · intro h
    have hx : dest % 16 = s.get F.fabCoordX := h 0 (by decide)
    have hy : dest / 16 % 16 = s.get F.fabCoordY := h 1 (by decide)
    have hz : dest / 256 % 16 = s.get F.fabCoordZ := h 2 (by decide)
    rw [rankXyz, State.coords, hx, hy, hz]

/-- There is no hop exactly where the module stands at the destination. -/
theorem routePort_eq_none {s : State} {dest : Nat} : routePort s dest = none ↔ rankXyz dest = s.coords := by
  rw [routePort_eq, List.findSome?_eq_none_iff, rankXyz_eq_coords_iff]
  simp only [List.mem_range, axisPort_eq_none]

theorem neighbour_getD_ne (s : State) {g k : Nat} (h : k ≠ g / 2) : (neighbour s g).getD k 0 = s.coords.getD k 0 := by
  simp [neighbour, List.getD_eq_getElem?_getD, List.getElem?_set_ne (Ne.symm h)]

/-- The neighbour on the port of the next hop is the module that R356 chooses next. -/
theorem neighbour_getD_of_axisPort {s : State} {dest g : Nat} (hg : g / 2 < 3) (h : axisPort s dest (g / 2) = some g) :
    (neighbour s g).getD (g / 2) 0 = ringNext (s.dims.getD (g / 2) 1) (s.coords.getD (g / 2) 0) ((rankXyz dest).getD (g / 2) 0) := by
  obtain ⟨-, -, hdir⟩ := axisPort_eq_some h
  have hlen : g / 2 < s.coords.length := hg
  simp only [neighbour, ringNext, hdir]
  rw [List.getD_eq_getElem?_getD, List.getElem?_set_self hlen, Option.getD_some]

/-! #### What the handling of a flit leaves unchanged -/

/-- The update counts in a register of the ports or changes what stands behind a port. -/
def Upd.atPort (u : Upd) : Prop :=
  match u with
  | .add r _ => r.name = .fabGpFecCorr ∨ r.name = .fabGpFecUncorr ∨ r.name = .fabGpRxFlits
  | .port _ _ => True
  | _ => False

/-- Only registers and ports differ, and neither the torus nor the position of the module. -/
structure SameTorus (s t : State) : Prop where
  frame : t = { s with regs := t.regs, ports := t.ports }
  coords : t.coords = s.coords
  dims : t.dims = s.dims

theorem SameTorus.refl (s : State) : SameTorus s s := ⟨rfl, rfl, rfl⟩

theorem SameTorus.trans {s t u : State} (h₁ : SameTorus s t) (h₂ : SameTorus t u) : SameTorus s u where
  frame := by rw [h₂.frame, h₁.frame]
  coords := h₂.coords.trans h₁.coords
  dims := h₂.dims.trans h₁.dims

/-- Where FAB_COORD and FAB_TORUS keep their value, so do the position and the torus that are read from them (R354). -/
theorem SameTorus.of_regs {s t : State} (frame : t = { s with regs := t.regs, ports := t.ports })
    (h : ∀ r : Reg, r.name = .fabCoord ∨ r.name = .fabTorus → t.reg r = s.reg r) : SameTorus s t where
  frame := frame
  coords := by
    have hget : ∀ f : Fld, f.reg = .fabCoord → t.get f = s.get f := fun f hf => State.get_of_reg_eq f 0 0 (h _ (.inl hf))
    rw [State.coords, hget _ rfl, hget _ rfl, hget _ rfl, State.coords]
  dims := by
    have hget : ∀ f : Fld, f.reg = .fabTorus → t.get f = s.get f := fun f hf => State.get_of_reg_eq f 0 0 (h _ (.inr hf))
    rw [State.dims, hget _ rfl, hget _ rfl, hget _ rfl, State.dims]

theorem Upd.atPort.not_hits {u : Upd} (hu : u.atPort) {r : Reg} (hr : r.name = .fabCoord ∨ r.name = .fabTorus) : ¬ u.hits r := by
  cases u with
  | add r' n =>
    rintro rfl
    rcases hu with hu | hu | hu <;> simp [hu] at hr
  | port g f => exact id
  | _ => exact hu.elim

theorem Upd.atPort.sameTorus {u : Upd} (hu : u.atPort) (s : State) : SameTorus s (u.apply s) := by
  refine .of_regs ?_ fun r hr => u.reg_of_not_hits r (hu.not_hits hr) s
  cases u with
  | add r n => rfl
  | port g f => rfl
  | _ => exact hu.elim

theorem applyAll_sameTorus {us : List Upd} (h : ∀ u ∈ us, u.atPort) (s : State) : SameTorus s (applyAll us s) :=
  applyAll_induct (P := SameTorus s) us (fun u hu t ht => ht.trans ((h u hu).sameTorus t)) s (.refl s)

/-- Where the update changes a port, f of the port keeps its value. -/
def Upd.keepsPort {β : Type} (f : Port → β) (u : Upd) : Prop :=
  match u with
  | .port _ h => ∀ y, f (h y) = f y
  | _ => True

theorem State.port_port (s : State) (g k : Nat) (h : Port → Port) :
    (Upd.apply (.port g h) s).port k = if g = k then h (s.port k) else s.port k := by
  rw [State.port, Upd.port_ports, tget_tset]
  split
  · next hgk => rw [hgk]
  · rfl

theorem State.port_add (s : State) (r : Reg) (n k : Nat) : (Upd.apply (.add r n) s).port k = s.port k := rfl

theorem Upd.keepsPort.apply {β : Type} {f : Port → β} {u : Upd} (hat : u.atPort) (hu : u.keepsPort f) (s : State) (k : Nat) :
    f ((u.apply s).port k) = f (s.port k) := by
  cases u with
  | add r n => rw [State.port_add]
  | port g h =>
    rw [State.port_port]
    split
    · exact hu _
    · rfl
  | _ => exact hat.elim

theorem applyAll_keepsPort {β : Type} {f : Port → β} {us : List Upd} (hat : ∀ u ∈ us, u.atPort) (h : ∀ u ∈ us, u.keepsPort f) (s : State)
    (k : Nat) : f ((applyAll us s).port k) = f (s.port k) :=
  applyAll_induct (P := fun t => f (t.port k) = f (s.port k)) us (fun u hu t ht => (Upd.keepsPort.apply (hat u hu) (h u hu) t k).trans ht) s rfl

/-! #### A whole DATA flit in its place -/

/-- What a whole flit does before its content is looked at: its codewords are counted and its ACK is applied (R343, R347). -/
def flitHead (g h : Nat) (errs : List Nat) : List Upd := fecUpd g errs ++ ackUpd g h

theorem forall_mem_flitHead {P : Upd → Prop} {g h : Nat} {errs : List Nat} (hcorr : ∀ n, P (.add ⟨.fabGpFecCorr, g, 0⟩ n))
    (huncorr : ∀ n, P (.add ⟨.fabGpFecUncorr, g, 0⟩ n)) (hack : ∀ a, P (.port g fun y => y.ack a)) : ∀ u ∈ flitHead g h errs, P u := by
  intro u hu
  simp only [flitHead, fecUpd, ackUpd, List.mem_append, List.mem_cons, List.not_mem_nil, or_false, List.mem_ite_nil_right] at hu
  rcases hu with (rfl | rfl) | ⟨-, rfl⟩
  · exact hcorr _
  · exact huncorr _
  · exact hack _

theorem flitHead_atPort (g h : Nat) (errs : List Nat) : ∀ u ∈ flitHead g h errs, u.atPort :=
  forall_mem_flitHead (fun _ => .inl rfl) (fun _ => .inr (.inl rfl)) fun _ => trivial

/-- An ACK touches nothing of a port but its replay buffer. -/
theorem Port.ack_eq (y : Port) (a : Nat) : y.ack a = { y with replay := (y.ack a).replay, back := (y.ack a).back, nakCount := (y.ack a).nakCount } := by
  unfold Port.ack
  split <;> rfl

theorem Port.ack_rx (y : Port) (a : Nat) : (y.ack a).rx = y.rx := by rw [y.ack_eq a]
theorem Port.ack_rxOld (y : Port) (a : Nat) : (y.ack a).rxOld = y.rxOld := by rw [y.ack_eq a]
theorem Port.ack_rxSeq (y : Port) (a : Nat) : (y.ack a).rxSeq = y.rxSeq := by rw [y.ack_eq a]
theorem Port.ack_txq (y : Port) (a : Nat) : (y.ack a).txq = y.txq := by rw [y.ack_eq a]

theorem flitHead_keepsPort {β : Type} {f : Port → β} (hack : ∀ y a, f (Port.ack y a) = f y) (g h : Nat) (errs : List Nat) :
    ∀ u ∈ flitHead g h errs, u.keepsPort f :=
  forall_mem_flitHead (fun _ => trivial) (fun _ => trivial) fun a y => hack y a

theorem applyAll_flitHead_port {β : Type} {f : Port → β} (hack : ∀ y a, f (Port.ack y a) = f y) (g h : Nat) (errs : List Nat) (s : State)
    (k : Nat) : f ((applyAll (flitHead g h errs) s).port k) = f (s.port k) :=
  applyAll_keepsPort (flitHead_atPort g h errs) (flitHead_keepsPort hack g h errs) s k

/-- A whole flit on a port that carries flits is taken after its head. -/
theorem run_flitIn {s : State} {g ty hdr : Nat} {payload : List Byte} {errs : List Nat} (take : Nat → Act) (hup : portUp s g = true)
    (hgood : flitGood ty hdr payload errs = true) :
    run (flitIn g ty hdr payload errs take) s = run (take (hdr % 2 ^ 32)) (applyAll (flitHead g (hdr % 2 ^ 32) errs) s) := by
  rw [run_congr (b := Act.all [Act.of (flitHead g (hdr % 2 ^ 32) errs), take (hdr % 2 ^ 32)])]
  · simp
  · simp only [flitIn, hup, hgood, flitHead, Bool.true_or, Bool.not_true, Bool.false_eq_true, if_false]

/-- A flit with the expected SEQ is accepted and taken. -/
theorem run_inOrder {s : State} {g h : Nat} (take : Act) (hseq : hdrSeq h = (s.port g).rxSeq) :
    run (inOrder g h take) s = run take (Upd.apply (.port g Port.accept) s) := by
  rw [run_congr (b := Act.all [Act.of [.port g Port.accept], take])]
  · simp
  · simp only [inOrder, hseq, ne_eq, not_true_eq_false, if_false]

/-- The flits of a VC that a port has received of a packet, with one more. -/
def gathered (s : State) (g vc : Nat) (payload : List Byte) : List (List Byte) := tget (s.port g).rx vc [] ++ [payload]

/-- What the last flit of a packet on a VC does before the packet is routed (R349, R351). -/
def lastFlit (g h : Nat) (errs : List Nat) : List Upd :=
  flitHead g h errs ++ [.port g Port.accept, .add ⟨.fabGpRxFlits, g, 0⟩ 1,
    .port g fun y => { y with rx := tdel y.rx (h / 8 % 8), rxOld := tdel y.rxOld (h / 8 % 8) }]

theorem forall_mem_lastFlit {P : Upd → Prop} {g h : Nat} {errs : List Nat} (hhead : ∀ u ∈ flitHead g h errs, P u)
    (haccept : P (.port g Port.accept)) (hcount : P (.add ⟨.fabGpRxFlits, g, 0⟩ 1))
    (htake : P (.port g fun y => { y with rx := tdel y.rx (h / 8 % 8), rxOld := tdel y.rxOld (h / 8 % 8) })) :
    ∀ u ∈ lastFlit g h errs, P u := by
  simp only [lastFlit, List.forall_mem_append, List.forall_mem_cons]
  exact ⟨hhead, haccept, hcount, htake, List.forall_mem_nil P⟩

theorem lastFlit_atPort (g h : Nat) (errs : List Nat) : ∀ u ∈ lastFlit g h errs, u.atPort :=
  forall_mem_lastFlit (flitHead_atPort g h errs) trivial (.inr (.inr rfl)) trivial

/-- What waits for a port is not touched before the packet is routed. -/
theorem applyAll_lastFlit_txq (g h : Nat) (errs : List Nat) (s : State) (k : Nat) :
    ((applyAll (lastFlit g h errs) s).port k).txq = (s.port k).txq :=
  applyAll_keepsPort (lastFlit_atPort g h errs)
    (forall_mem_lastFlit (flitHead_keepsPort Port.ack_txq g h errs) (fun _ => rfl) trivial fun _ => rfl) s k

/-- A whole DATA flit with the expected SEQ and LAST: its packet is routed. -/
theorem run_dataFlitAct_last {s : State} {g hdr : Nat} {payload : List Byte} {errs : List Nat} (hup : portUp s g = true)
    (hgood : flitGood 1 hdr payload errs = true) (hseq : hdrSeq (hdr % 2 ^ 32) = (s.port g).rxSeq) (hlast : hdr % 2 ^ 32 / 2 ^ 31 = 1) :
    let vc := hdr % 2 ^ 32 / 8 % 8
    run (dataFlitAct g hdr payload errs) s =
      run (routePacket vc none (some (g, vc, (gathered s g vc payload).length - tget (s.port g).rxOld vc 0)) (gathered s g vc payload).flatten)
        (applyAll (lastFlit g (hdr % 2 ^ 32) errs) s) := by
  intro vc
  have hrxSeq := applyAll_flitHead_port (f := Port.rxSeq) Port.ack_rxSeq g (hdr % 2 ^ 32) errs s g
  have hrx := applyAll_flitHead_port (f := Port.rx) Port.ack_rx g (hdr % 2 ^ 32) errs s g
  have hrxOld := applyAll_flitHead_port (f := Port.rxOld) Port.ack_rxOld g (hdr % 2 ^ 32) errs s g
  rw [dataFlitAct, run_flitIn _ hup hgood, run_inOrder _ (hseq.trans hrxSeq.symm), gathered, lastFlit, applyAll_append, ← hrx, ← hrxOld]
  generalize applyAll (flitHead g (hdr % 2 ^ 32) errs) s = a
  have hport : (Upd.apply (.port g Port.accept) a).port g = (a.port g).accept := by rw [State.port_port, if_pos rfl]
  rw [run, hport]
  simp only [hlast, if_true]
  change run (Act.all [_, Act.all [_, _]]) _ = _
  simp only [run_all_cons, run_all_nil, run_of]
  rfl

/-! #### The packet goes on -/

/-- A packet with a hop ahead waits for the port of its hop, and its credits go back (R351, R356). -/
theorem run_routePacket_forward {s : State} {vc k : Nat} (tag : Option (Nat × Nat)) (via : Option (Nat × Nat × Nat)) (bs : List Byte)
    (hroute : routePort s (natOf (bs.take 8) % 4096) = some k) :
    run (routePacket vc tag via bs) s = applyAll (creditBack via) (Upd.apply (.port k fun y =>
      { y with txq := y.txq ++ [{ vc := vc, part := natOf (bs.take 8) / 4096 % 4, tag := tag, flits := pktFlits bs }] }) s) := by
  rw [run, routePacket]
  simp only [hroute]
  rfl

theorem forall_mem_creditBack {P : Upd → Prop} (h : ∀ g c, P (pushCtrl g c)) (via : Option (Nat × Nat × Nat)) : ∀ u ∈ creditBack via, P u := by
  intro u hu
  unfold creditBack at hu
  split at hu
  · rw [List.mem_ite_nil_left, List.mem_singleton] at hu
    obtain ⟨-, rfl⟩ := hu
    exact h _ _
  · exact absurd hu List.not_mem_nil

theorem creditBack_atPort (via : Option (Nat × Nat × Nat)) : ∀ u ∈ creditBack via, u.atPort :=
  forall_mem_creditBack (fun _ _ => trivial) via

/-- Credits go back by CTRL flits, not by packets. -/
theorem creditBack_keepsTxq (via : Option (Nat × Nat × Nat)) : ∀ u ∈ creditBack via, u.keepsPort Port.txq :=
  forall_mem_creditBack (fun _ _ _ => rfl) via

/-- The last flit of a packet with a hop ahead: the packet waits for the port of its hop, and but for registers and ports the state stays
(R356, log 32). -/
theorem dataFlit_forward {g : PortIx} {x : RxFlit} {errs : List Nat} {s : State} {k : Nat} (hup : portUp s g = true)
    (hgood : flitGood 1 (flitWord x) x.payload errs = true) (hseq : hdrSeq (flitWord x % 2 ^ 32) = (s.port g).rxSeq)
    (hlast : flitWord x % 2 ^ 32 / 2 ^ 31 = 1)
    (hroute : routePort s (natOf ((gathered s g (flitWord x % 2 ^ 32 / 8 % 8) x.payload).flatten.take 8) % 4096) = some k) :
    Completes (.dataFlit g x.hdr x.crc x.payload errs) s fun t =>
      (t.port k).txq = (s.port k).txq ++ [{
        vc := flitWord x % 2 ^ 32 / 8 % 8,
        part := natOf ((gathered s g (flitWord x % 2 ^ 32 / 8 % 8) x.payload).flatten.take 8) / 4096 % 4, tag := none,
        flits := pktFlits (gathered s g (flitWord x % 2 ^ 32 / 8 % 8) x.payload).flatten }] ∧
      t = { s with regs := t.regs, ports := t.ports } := by
  have hhead := applyAll_sameTorus (lastFlit_atPort g (flitWord x % 2 ^ 32) errs) s
  have hsent (t : State) (y : Port → Port) : SameTorus t (Upd.apply (.port k y) t) := Upd.atPort.sameTorus (u := .port k y) trivial t
  refine ⟨_, rfl, ?_⟩
  rw [run_dataFlitAct_last hup hgood hseq hlast,
    run_routePacket_forward _ _ _ ((routePort_congr _ hhead.coords hhead.dims).trans hroute)]
  constructor
  · rw [applyAll_keepsPort (creditBack_atPort _) (creditBack_keepsTxq _), State.port_port, if_pos rfl, applyAll_lastFlit_txq]
  · exact ((hhead.trans (hsent _ _)).trans (applyAll_sameTorus (creditBack_atPort _) _)).frame

/-- Settles O57: a hop follows the first axis that is not yet done, by `ringNext`, and the last flit of a packet enters the queue of its port. -/
theorem routeApproaches : Obligations.RouteApproaches := by
  constructor
  · intro dest s hin hops
    refine ⟨routePort_eq_none, fun t hc hd => routePort_congr dest hc hd, ?_⟩
    intro g hg
    obtain ⟨haxis, hport, hdone⟩ := routePort_eq_some hg
    obtain ⟨hne, -, hdir⟩ := axisPort_eq_some hport
    obtain ⟨hme, hgoal⟩ := hin (g / 2) haxis
    refine ⟨by omega, ?tie, ?nearer, hdone, fun k _ hk => neighbour_getD_ne s hk⟩
    case tie => exact fun h => hdir.2 (ringDist_le_of_ringHops_half hme h)
    case nearer =>
      have h := ringHops_ringNext hme hgoal hne
      rw [← neighbour_getD_of_axisPort haxis hport] at h
      exact h
  · intro g x errs s hup h bs hgood hseq hlast k hroute
    exact dataFlit_forward hup hgood hseq hlast hroute

end Sys2Proof.Machine
